-- ==== Sys2Proof/Word.lean ====
section
/-!
DEFINITION. The word types: the byte of a message (00_scope.md R9) and the 16-bit pattern of an int16 (R10).
-/

namespace Sys2Proof

/-- An unsigned 8-bit value (00_scope.md R9). -/
abbrev Byte := BitVec 8

/-- The 16-bit two's-complement pattern of an int16; its value `s16` is `BitVec.toInt` (00_scope.md R10). -/
abbrev Temp := BitVec 16

end Sys2Proof
end

