-- ==== Sys2Proof/Config.lean ====
section
/-!
DEFINITION. The configuration parameters of 00_scope.md R7. They are arguments of the model: every state carries the
configuration it runs under, no operation writes it, and every statement holds for each of its values.
-/

namespace Sys2Proof

/-- The four parameters of 00_scope.md R7, fixed before the first operation (70_reset_and_hazards.md R252). -/
structure Config where
  /-- `TOL`: the consensus tolerance, a mathematical integer of either sign (R25). -/
  tol : Int
  /-- `RX_TIMEOUT`: the receive timeout in milliseconds (R26). -/
  rxTimeout : Nat
  /-- `CLOCK_W`: width in bits of the clock reading `now` and of `T0`. -/
  clockW : Nat
  /-- `RX_CAPACITY`: capacity in bytes of the reader's buffer. -/
  rxCapacity : Nat
deriving DecidableEq, Repr

/-- The configuration of `State.reset`: the one the spec's own vectors use (95_test_vectors.md, Conventions).
DESIGN CHOICE, unsafe (log 2): the spec leaves TOL, RX_TIMEOUT and CLOCK_W open. No statement rests on these numbers. -/
def Config.ofVectors : Config :=
  { tol := 50, rxTimeout := 100, clockW := 32, rxCapacity := 3 }

end Sys2Proof
end

