-- ==== Sys2Proof/Syntax.lean ====
section
/-!
DEFINITION. The operations and wire messages of spec/opcode_table.json as one inductive type, their operand bundles
(30_encoding.md R85), the enumerations of R77, and the raw form in which the host presents an operation.
-/

namespace Sys2Proof

/-- A `TemperatureReading` (41_consensus.md R140): validity flag and temperature in hundredths of a degree. -/
structure Reading where
  valid : Bool
  temp : Temp
deriving DecidableEq, Repr

/-- RequestType (30_encoding.md R77); `unknown` is the decode-failure sentinel (R83). -/
inductive RequestType where
  | temperature | systemStatus | unknown
deriving DecidableEq, Repr

/-- VoteStatus (30_encoding.md R77); `unknown` is the sentinel of decision D11. -/
inductive VoteStatus where
  | ok | sensorError | disagree | unknown
deriving DecidableEq, Repr

/-- SystemStatus (30_encoding.md R77). -/
inductive SystemStatus where
  | ok | setupError | unknownFailure | unknown
deriving DecidableEq, Repr

/-- ErrorCode (30_encoding.md R77). -/
inductive ErrorCode where
  | badRequest | systemFailure | unknown
deriving DecidableEq, Repr

/-- One constructor per row of spec/opcode_table.json: the eight operations (30_encoding.md R84) with the operands of
R85, and the five wire messages (R73 to R76). -/
inductive Instr where
  /-- `PROCESS b, @now` (R100). -/
  | process (b : Byte) (now : Nat)
  /-- `RESET` (R110). -/
  | reset
  /-- `GET_DATA` (R120). -/
  | getData
  /-- `VOTE (v0,t0), (v1,t1), (v2,t2)` (R140). -/
  | vote (r0 r1 r2 : Reading)
  /-- `ENC_TEMP st, [a0 a1 a2], p0, p1, p2, avg` (R171). -/
  | encTemp (st : Byte) (a0 a1 a2 : Bool) (p0 p1 p2 avg : Temp)
  /-- `ENC_SYS ss, [g0 g1 g2]` (R172). -/
  | encSys (ss : Byte) (g0 g1 g2 : Bool)
  /-- `ENC_ERR ec` (R173). -/
  | encErr (ec : Byte)
  /-- `SEND` (R174). -/
  | send
  /-- The request `04 00 04`, its bytes arriving at the clock readings `n0`, `n1`, `n2` (R73). -/
  | reqTemperature (n0 n1 n2 : Nat)
  /-- The request `04 01 05`, its bytes arriving at the clock readings `n0`, `n1`, `n2` (R73). -/
  | reqSystemStatus (n0 n1 n2 : Nat)
  /-- The Temperature response (R74): byte 1, the three temperatures, the agree bits, the average, the last byte. -/
  | rspTemperature (st : Byte) (p0 p1 p2 : Temp) (a0 a1 a2 : Bool) (avg : Temp) (k : Byte)
  /-- The SystemStatus response (R75): byte 1, the sensor-good bits, the last byte. -/
  | rspSystemStatus (ss : Byte) (g0 g1 g2 : Bool) (k : Byte)
  /-- The Error response (R76): byte 1, the last byte. -/
  | rspError (ec : Byte) (k : Byte)
deriving DecidableEq, Repr

/-- What the host presents to the block, before decoding (log 6, 7, 8). -/
inductive HostInput where
  /-- A command word (bits 7:0) with its operand bundle in the bits above it (R84, R85; layout of log 7). -/
  | command (w : Nat)
  /-- Received bytes, each with the clock reading of its arrival (R73, R81, R82). -/
  | request (arrivals : List (Byte × Nat))
  /-- An emitted message, byte 0 first (R74 to R76). -/
  | response (bytes : List Byte)
deriving DecidableEq, Repr

end Sys2Proof
end

