-- ==== Sys2Proof/Machine/Flags.lean ====
section
/-!
DEFINITION. The flag computations: packing three booleans into a message byte (30_encoding.md R79), and the agreement
flags of the Consensus Engine (41_consensus.md R143). The block has no flag register (10_state.md R34).
-/

namespace Sys2Proof.Machine

/-- A boolean as a byte: true = 1, false = 0 (00_scope.md R9). -/
def flagByte (f : Bool) : Byte := if f then 1#8 else 0#8

/-- The bit-packed flag byte `f0 | f1 << 1 | f2 << 2`, bits 7:3 zero (30_encoding.md R79). -/
def packFlags (f0 f1 f2 : Bool) : Byte :=
  flagByte f0 ||| flagByte f1 <<< 1 ||| flagByte f2 <<< 2

/-- How many of three flags are set (41_consensus.md R140, steps 2 and 5). -/
def countFlags (f0 f1 f2 : Bool) : Nat := f0.toNat + f1.toNat + f2.toNat

/-- `abs(t_i - t_j) <= TOL` on mathematical integers (41_consensus.md R143, R149). -/
def withinTol (tol : Int) (a b : Temp) : Bool := decide (((a.toInt - b.toInt).natAbs : Int) ≤ tol)

/-- The agreement flag of reading `r` with the other two readings `x` and `y` (41_consensus.md R143). -/
def agreeFlag (tol : Int) (r x y : Reading) : Bool :=
  r.valid && ((x.valid && withinTol tol r.temp x.temp) || (y.valid && withinTol tol r.temp y.temp))

end Sys2Proof.Machine
end

