-- ==== Sys2Proof/Machine/Operands.lean ====
section
/-!
DEFINITION. The operand forms and the message formats: constants (00_scope.md R8), enumeration ordinals (30_encoding.md
R77), little-endian int16 (R78), clamping (R80), the checksum (R72), the three emitted messages (R74 to R76), and the
clock arithmetic of the receive timeout (40_request_reader.md R101).
-/

namespace Sys2Proof.Machine

/-- `REQUEST_TAG`, the Request identifier (00_scope.md R8, 30_encoding.md R70). -/
def requestTag : Byte := 0x04#8
/-- The Temperature identifier (30_encoding.md R70). -/
def temperatureId : Byte := 0x01#8
/-- The SystemStatus identifier (30_encoding.md R70). -/
def systemStatusId : Byte := 0x02#8
/-- The Error identifier (30_encoding.md R70). -/
def errorId : Byte := 0x03#8
/-- `REQUEST_SIZE` (00_scope.md R8). -/
def requestSize : Nat := 3
/-- `MB_SIZE` (00_scope.md R8). -/
def mbSize : Nat := 12

/-- The length of a message by its identifier; no other identifier is assigned (30_encoding.md R71, R82). -/
def messageLength (ident : Byte) : Option Nat :=
  if ident = requestTag then some 3
  else if ident = temperatureId then some 12
  else if ident = systemStatusId then some 4
  else if ident = errorId then some 3
  else none

/-- RequestType ordinals (30_encoding.md R77, R85). -/
def requestTypeOrdinal : RequestType → BitVec 2
  | .temperature => 0
  | .systemStatus => 1
  | .unknown => 2

/-- VoteStatus ordinals (30_encoding.md R77). -/
def voteStatusOrdinal : VoteStatus → Byte
  | .ok => 0
  | .sensorError => 1
  | .disagree => 2
  | .unknown => 3

/-- SystemStatus ordinals (30_encoding.md R77). -/
def systemStatusOrdinal : SystemStatus → Byte
  | .ok => 0
  | .setupError => 1
  | .unknownFailure => 2
  | .unknown => 3

/-- ErrorCode ordinals (30_encoding.md R77). -/
def errorCodeOrdinal : ErrorCode → Byte
  | .badRequest => 0
  | .systemFailure => 1
  | .unknown => 2

/-- `clamp_U(v) = if v < U then v else U`, unsigned (30_encoding.md R80). -/
def clampTo (sentinel v : Byte) : Byte := if v < sentinel then v else sentinel

/-- `clamp_3` for a vote status (42_response_encoder.md R170). -/
def clampVoteStatus (v : Byte) : Byte := clampTo (voteStatusOrdinal .unknown) v
/-- `clamp_3` for a system status (42_response_encoder.md R170). -/
def clampSystemStatus (v : Byte) : Byte := clampTo (systemStatusOrdinal .unknown) v
/-- `clamp_2` for an error code (42_response_encoder.md R170). -/
def clampErrorCode (v : Byte) : Byte := clampTo (errorCodeOrdinal .unknown) v

/-- The low byte of an int16 pattern, `le16(v)[0]` (00_scope.md R11). -/
def lowByte (t : Temp) : Byte := t.extractLsb' 0 8
/-- The high byte of an int16 pattern, `le16(v)[1]` (00_scope.md R11). -/
def highByte (t : Temp) : Byte := t.extractLsb' 8 8
/-- The pattern of the int16 sent as the bytes `lo`, `hi` (20_memory.md R52, 30_encoding.md R78). -/
def ofLe16 (lo hi : Byte) : Temp := hi ++ lo

/-- `xorsum(b0, ..., bn)`, with `xorsum() = 0` (00_scope.md R11, 30_encoding.md R72). -/
def xorsum (bs : List Byte) : Byte := bs.foldr (· ^^^ ·) 0#8

/-- A message from its bytes before the checksum (30_encoding.md R72). -/
def sealMessage (body : List Byte) : List Byte := body ++ [xorsum body]

/-- Bytes 0 to 10 of a Temperature response whose byte 1 is `st` (30_encoding.md R74). -/
def temperatureBody (st : Byte) (p0 p1 p2 : Temp) (a0 a1 a2 : Bool) (avg : Temp) : List Byte :=
  [temperatureId, st, lowByte p0, highByte p0, lowByte p1, highByte p1, lowByte p2, highByte p2,
    packFlags a0 a1 a2, lowByte avg, highByte avg]

/-- Bytes 0 to 2 of a SystemStatus response whose byte 1 is `ss` (30_encoding.md R75). -/
def systemStatusBody (ss : Byte) (g0 g1 g2 : Bool) : List Byte :=
  [systemStatusId, ss, packFlags g0 g1 g2]

/-- Bytes 0 and 1 of an Error response whose byte 1 is `ec` (30_encoding.md R76). -/
def errorBody (ec : Byte) : List Byte := [errorId, ec]

/-- The message `ENC_TEMP` writes (42_response_encoder.md R171). -/
def temperatureMessage (st : Byte) (a0 a1 a2 : Bool) (p0 p1 p2 avg : Temp) : List Byte :=
  sealMessage (temperatureBody (clampVoteStatus st) p0 p1 p2 a0 a1 a2 avg)

/-- The message `ENC_SYS` writes (42_response_encoder.md R172). -/
def systemStatusMessage (ss : Byte) (g0 g1 g2 : Bool) : List Byte :=
  sealMessage (systemStatusBody (clampSystemStatus ss) g0 g1 g2)

/-- The message `ENC_ERR` writes (42_response_encoder.md R173). -/
def errorMessage (ec : Byte) : List Byte := sealMessage (errorBody (clampErrorCode ec))

/-- The value of a `CLOCK_W`-bit clock operand: the port carries `CLOCK_W` bits (30_encoding.md R85, R87; log 13). -/
def clockReading (clockW now : Nat) : Nat := now % 2 ^ clockW

/-- `(now - T0) mod 2^CLOCK_W` (40_request_reader.md R101). -/
def elapsed (clockW now t0 : Nat) : Nat := (((now : Int) - (t0 : Int)) % (2 : Int) ^ clockW).toNat

end Sys2Proof.Machine
end

