-- ==== Sys2Proof/WellFormed.lean ====
section
/-!
DEFINITION. When a term of `Instr` is well formed: its operands fit their widths (30_encoding.md R85, R87), and a wire
response is one the encoders can emit (R72, R80, R83).
-/

namespace Sys2Proof

open Sys2Proof.Machine

/-- Every clock operand fits `CLOCK_W` bits (30_encoding.md R85); the other operands fit by their types. -/
def Instr.fits (clockW : Nat) : Instr → Bool
  | .process _ now => decide (now < 2 ^ clockW)
  | .reqTemperature n0 n1 n2 => decide (n0 < 2 ^ clockW ∧ n1 < 2 ^ clockW ∧ n2 < 2 ^ clockW)
  | .reqSystemStatus n0 n1 n2 => decide (n0 < 2 ^ clockW ∧ n1 < 2 ^ clockW ∧ n2 < 2 ^ clockW)
  | .reset => true
  | .getData => true
  | .vote _ _ _ => true
  | .encTemp _ _ _ _ _ _ _ _ => true
  | .encSys _ _ _ _ => true
  | .encErr _ => true
  | .send => true
  | .rspTemperature _ _ _ _ _ _ _ _ _ => true
  | .rspSystemStatus _ _ _ _ _ => true
  | .rspError _ _ => true

/-- A wire response carries a clamped ordinal (30_encoding.md R80, R83) and the checksum of its bytes (R72). -/
def Instr.lawful : Instr → Bool
  | .rspTemperature st p0 p1 p2 a0 a1 a2 avg k =>
      decide (st ≤ voteStatusOrdinal .unknown) && decide (k = xorsum (temperatureBody st p0 p1 p2 a0 a1 a2 avg))
  | .rspSystemStatus ss g0 g1 g2 k =>
      decide (ss ≤ systemStatusOrdinal .unknown) && decide (k = xorsum (systemStatusBody ss g0 g1 g2))
  | .rspError ec k =>
      decide (ec ≤ errorCodeOrdinal .unknown) && decide (k = xorsum (errorBody ec))
  | .process _ _ => true
  | .reset => true
  | .getData => true
  | .vote _ _ _ => true
  | .encTemp _ _ _ _ _ _ _ _ => true
  | .encSys _ _ _ _ => true
  | .encErr _ => true
  | .send => true
  | .reqTemperature _ _ _ => true
  | .reqSystemStatus _ _ _ => true

/-- A well-formed instruction at a given `CLOCK_W`. -/
def Instr.wf (clockW : Nat) (i : Instr) : Bool := i.fits clockW && i.lawful

end Sys2Proof
end

