-- ==== Sys2Proof/Decode.lean ====
section
/-!
DEFINITION. The decoder, total on whatever the host presents and refusing by name, and the encoder. Command words and
operand widths: 30_encoding.md R84, R85, R87; wire messages: R70 to R76. The spec gives the bundles no binary layout: the
one used here is log 7 (DESIGN CHOICE): the operands of R85 in the spec's order, each at its width, the first at bit 8.
-/

namespace Sys2Proof

open Sys2Proof.Machine

/-- Why the decoder answers no row of the table. -/
inductive DecodeError where
  /-- A command word with any of bits 7:3 set (30_encoding.md R84). -/
  | badCommand
  /-- Received bytes that are no legal request (30_encoding.md R81, R82): not refused; the reader takes them one by one, each by
  the `PROCESS` listed here. -/
  | otherBytes (pushes : List Instr)
  /-- Bytes presented as an emitted message that the block never emits (30_encoding.md R70, R71, R79, R82; log 14). -/
  | badMessage
deriving DecidableEq, Repr

/-- The unsigned field of `width` bits of `w` whose lowest bit is bit `lo` (00_scope.md R9). -/
def fieldAt (lo width w : Nat) : Nat := w / 2 ^ lo % 2 ^ width

/-- The 8-bit operand at bit `lo`. -/
def byteAt (lo w : Nat) : Byte := BitVec.ofNat 8 (fieldAt lo 8 w)

/-- The int16 operand at bit `lo`. -/
def tempAt (lo w : Nat) : Temp := BitVec.ofNat 16 (fieldAt lo 16 w)

/-- The 1-bit operand at bit `lo`. -/
def flagAt (lo w : Nat) : Bool := decide (fieldAt lo 1 w = 1)

/-- An operation from its command word (bits 7:0) and bundle (30_encoding.md R84, R85). -/
def decodeCommand (clockW w : Nat) : Except DecodeError Instr :=
  match fieldAt 0 8 w with
  | 0 => .ok (.process (byteAt 8 w) (fieldAt 16 clockW w))
  | 1 => .ok .reset
  | 2 => .ok .getData
  | 3 => .ok (.vote ⟨flagAt 8 w, tempAt 11 w⟩ ⟨flagAt 9 w, tempAt 27 w⟩ ⟨flagAt 10 w, tempAt 43 w⟩)
  | 4 => .ok (.encTemp (byteAt 8 w) (flagAt 16 w) (flagAt 17 w) (flagAt 18 w)
          (tempAt 19 w) (tempAt 35 w) (tempAt 51 w) (tempAt 67 w))
  | 5 => .ok (.encSys (byteAt 8 w) (flagAt 16 w) (flagAt 17 w) (flagAt 18 w))
  | 6 => .ok (.encErr (byteAt 8 w))
  | 7 => .ok .send
  | _ => .error .badCommand

/-- Received bytes as the `PROCESS` of each (`PUSH`, 30_encoding.md R86), at its own clock reading. -/
def pushArrivals (clockW : Nat) (arrivals : List (Byte × Nat)) : List Instr :=
  arrivals.map fun a => .process a.1 (clockReading clockW a.2)

/-- Received bytes: the two legal requests (30_encoding.md R73), or others (R81). -/
def decodeRequest (clockW : Nat) : List (Byte × Nat) → Except DecodeError Instr
  | [(b0, n0), (b1, n1), (b2, n2)] =>
      if b0 = 0x04#8 ∧ b1 = 0x00#8 ∧ b2 = 0x04#8 then
        .ok (.reqTemperature (clockReading clockW n0) (clockReading clockW n1) (clockReading clockW n2))
      else if b0 = 0x04#8 ∧ b1 = 0x01#8 ∧ b2 = 0x05#8 then
        .ok (.reqSystemStatus (clockReading clockW n0) (clockReading clockW n1) (clockReading clockW n2))
      else .error (.otherBytes (pushArrivals clockW [(b0, n0), (b1, n1), (b2, n2)]))
  | arrivals => .error (.otherBytes (pushArrivals clockW arrivals))

/-- Bits 7:3 of a flag byte are 0 in every emitted message (30_encoding.md R74, R75, R79). -/
def flagsReserved (b : Byte) : Bool := b &&& 0xF8#8 == 0#8

/-- An emitted message (30_encoding.md R74 to R76): identifier, length and the fixed bits are checked. -/
def decodeResponse : List Byte → Except DecodeError Instr
  | [b0, b1, b2] =>
      if b0 = errorId then .ok (.rspError b1 b2) else .error .badMessage
  | [b0, b1, b2, b3] =>
      if b0 = systemStatusId ∧ flagsReserved b2 then
        .ok (.rspSystemStatus b1 (b2.getLsbD 0) (b2.getLsbD 1) (b2.getLsbD 2) b3)
      else .error .badMessage
  | [b0, b1, b2, b3, b4, b5, b6, b7, b8, b9, b10, b11] =>
      if b0 = temperatureId ∧ flagsReserved b8 then
        .ok (.rspTemperature b1 (ofLe16 b2 b3) (ofLe16 b4 b5) (ofLe16 b6 b7)
          (b8.getLsbD 0) (b8.getLsbD 1) (b8.getLsbD 2) (ofLe16 b9 b10) b11)
      else .error .badMessage
  | _ => .error .badMessage

/-- What the host presents, decoded at a given `CLOCK_W`. -/
def decode (clockW : Nat) : HostInput → Except DecodeError Instr
  | .command w => decodeCommand clockW w
  | .request arrivals => decodeRequest clockW arrivals
  | .response bytes => decodeResponse bytes

/-- Lay fields out from bit 0 upward, each given as (width, value). -/
def packFields : List (Nat × Nat) → Nat
  | [] => 0
  | (width, v) :: rest => v % 2 ^ width + 2 ^ width * packFields rest

/-- What the host presents for an instruction (the inverse of `decode` on operands that fit). -/
def encode (clockW : Nat) : Instr → HostInput
  | .process b now => .command (packFields [(8, 0), (8, b.toNat), (clockW, now)])
  | .reset => .command (packFields [(8, 1)])
  | .getData => .command (packFields [(8, 2)])
  | .vote r0 r1 r2 => .command (packFields [(8, 3), (1, r0.valid.toNat), (1, r1.valid.toNat), (1, r2.valid.toNat),
      (16, r0.temp.toNat), (16, r1.temp.toNat), (16, r2.temp.toNat)])
  | .encTemp st a0 a1 a2 p0 p1 p2 avg => .command (packFields [(8, 4), (8, st.toNat), (1, a0.toNat), (1, a1.toNat),
      (1, a2.toNat), (16, p0.toNat), (16, p1.toNat), (16, p2.toNat), (16, avg.toNat)])
  | .encSys ss g0 g1 g2 => .command (packFields [(8, 5), (8, ss.toNat), (1, g0.toNat), (1, g1.toNat), (1, g2.toNat)])
  | .encErr ec => .command (packFields [(8, 6), (8, ec.toNat)])
  | .send => .command (packFields [(8, 7)])
  | .reqTemperature n0 n1 n2 => .request [(0x04#8, n0), (0x00#8, n1), (0x04#8, n2)]
  | .reqSystemStatus n0 n1 n2 => .request [(0x04#8, n0), (0x01#8, n1), (0x05#8, n2)]
  | .rspTemperature st p0 p1 p2 a0 a1 a2 avg k => .response (temperatureBody st p0 p1 p2 a0 a1 a2 avg ++ [k])
  | .rspSystemStatus ss g0 g1 g2 k => .response (systemStatusBody ss g0 g1 g2 ++ [k])
  | .rspError ec k => .response (errorBody ec ++ [k])

/-- The lowest `n` bytes of `w`, most significant first: the order in which the table's pattern strings and its numbers
write the bytes of a message (30_encoding.md A.2; log 8). -/
def messageBytes : Nat → Nat → List Byte
  | 0, _ => []
  | n + 1, w => BitVec.ofNat 8 (w / 256 ^ n) :: messageBytes n w

/-- What the host presents for a row of spec/opcode_table.json whose bits are `w`: a command word of 8 bits, its bundle
zero; or a message, its bytes in transmission order, received (clock readings zero) if its identifier is the Request's. -/
def tableInput (nbits w : Nat) : HostInput :=
  if nbits ≤ 8 then .command (w % 2 ^ nbits)
  else
    match messageBytes (nbits / 8) w with
    | b0 :: rest =>
        if b0 = requestTag then .request ((b0 :: rest).map fun b => (b, 0)) else .response (b0 :: rest)
    | [] => .response []

/-- The instruction the decoder reads from a row of spec/opcode_table.json whose bits are `w` (numbered as the table
numbers them; every bit above `nbits` zero). No row's bits depend on `CLOCK_W`. -/
def decodeTableWord (nbits w : Nat) : Option Instr :=
  match decode Config.ofVectors.clockW (tableInput nbits w) with
  | .ok i => some i
  | .error _ => none

end Sys2Proof
end

