-- ==== Sys2Proof/Machine/State.lean ====
section
/-!
DEFINITION. The state of the block as plain data (10_state.md R20 to R37), the faults and refusals of 60_exceptions.md
R222, and the state after power-on reset (70_reset_and_hazards.md R250).
-/

namespace Sys2Proof.Machine

/-- `RS`, the Request Reader state (10_state.md R21). -/
inductive ReaderState where
  | start | collect | done
deriving DecidableEq, Repr

/-- `MSIZE` takes one of the values 3, 4 or 12 (10_state.md R30). -/
inductive MsgSize where
  | three | four | twelve
deriving DecidableEq, Repr

/-- `VR`, the vote-result register (10_state.md R29). -/
structure VoteResult where
  /-- `VR.status`, an ordinal of VoteStatus. -/
  status : Byte
  agree0 : Bool
  agree1 : Bool
  agree2 : Bool
  temp0 : Temp
  temp1 : Temp
  temp2 : Temp
  avg : Temp
deriving DecidableEq, Repr

/-- The result an operation returns to the host (30_encoding.md R85, 43_dispatch.md R207). -/
inductive OpResult where
  /-- `PROCESS`: `req_avail`. -/
  | reqAvail (avail : Bool)
  /-- `GET_DATA`: `ok` and `rtype`. -/
  | data (ok : Bool) (rtype : RequestType)
  /-- `VOTE`: the vote result. -/
  | voted (vr : VoteResult)
deriving DecidableEq, Repr

/-- A byte store (20_memory.md R50): (offset, byte) pairs, offsets strictly rising. An unlisted byte is unwritten: it
holds no value (10_state.md R37). -/
abbrev Memory := List Host.Cell

/-- A state element that can be read while it holds no value (10_state.md R37). -/
inductive Element where
  | t0 | rxb | mb
deriving DecidableEq, Repr

/-- The faults: a read of a state element that holds no value (00_scope.md R12). -/
inductive Fault where
  /-- Raised by `SEND` while `MSIZE` is unwritten, before any encode since power-on (R174, R222). Safe: the run stops where
  the source's would go on. -/
  | sendUnwritten
  /-- Raised by `readElement` for a read of `T0` in `COLLECT`, of a byte of `RXB` in `DONE`, or of a byte of `MB` below `MSIZE`,
  that holds no value: "a model must not give it one, and a read of it faults" (R37; 92_eei_decisions.md D18,
  93_implementation_defined.md I5). No run from power-on reaches it (R23, R24, R36, R222). Safe: the run stops (log 4). -/
  | unwritten (e : Element)
deriving DecidableEq, Repr

/-- The refusals (00_scope.md R12, 60_exceptions.md R222). -/
inductive Refusal where
  /-- An arm of `exec` whose instruction has no meaning yet. No arm uses it. Safe. -/
  | notModelled (mnemonic : String)
  /-- Raised by `step` for a command word with any of bits 7:3 set (R84, R222). Safe: the run counts as failed. -/
  | badCommand
  /-- Raised by every operation under an illegal configuration (R7, R222). Safe: the run counts as failed. -/
  | badConfig
  /-- Raised by `step` for bytes presented as an emitted message that the block never emits (R70, R71, R79, R82; log 14). They
  are no row of the table and no rule gives them an effect. Safe: the run stops. -/
  | badMessage
deriving DecidableEq, Repr

/-- The state of the block under a configuration, with two fields of the model's own: `results` (log 5), `host` (log 6). -/
structure State where
  /-- The configuration the block runs under (R7, R25, R26, R37; log 1). -/
  cfg : Config
  /-- `RS` (R21). -/
  rs : ReaderState
  /-- `WPOS` (R22). -/
  wpos : Nat
  /-- `T0` (R23); `none`: unwritten. -/
  t0 : Option Nat
  /-- `RXB` (R24). -/
  rxb : Memory
  /-- `VR` (R29); `none`: every field unwritten. -/
  vr : Option VoteResult
  /-- `MB` (R30). -/
  mb : Memory
  /-- `MSIZE` (R30); `none`: unwritten. -/
  msize : Option MsgSize
  /-- `TX`, oldest byte first (R33). -/
  tx : List Byte
  /-- The results returned so far, oldest first (the model's own; R207, log 5). -/
  results : List OpResult
  /-- The operations the host will yet apply, oldest first (the model's own; R31, log 6). -/
  host : List HostInput
deriving DecidableEq, Repr

/-- The power-on state under a configuration (10_state.md R37, 70_reset_and_hazards.md R250). -/
def State.powerOn (c : Config) : State :=
  { cfg := c, rs := .start, wpos := 0, t0 := none, rxb := [], vr := none, mb := [], msize := none, tx := [],
    results := [], host := [] }

/-- The machine right after reset, under the configuration of the spec's vectors (log 2). -/
def State.reset : State := State.powerOn Config.ofVectors

end Sys2Proof.Machine
end

