-- ==== Sys2Proof/Machine/Ops.lean ====
section
/-!
DEFINITION. The named operations over the state: byte stores (20_memory.md R50), the reader's, the vote's and the
encoder's updates, results, sequencing, the configuration check (60_exceptions.md R222), and fetching the host's next
operation. The block has no exception to take and none to return from (60_exceptions.md R220, R227).
-/

namespace Sys2Proof.Machine

/-- The outcome of an operation (00_scope.md R12). -/
abbrev Out := Host.Outcome State Fault Refusal

/-! ### Byte stores -/

/-- `MemRead(S:a, 1)`; `none`: the byte holds no value (00_scope.md R11, 10_state.md R37). -/
def Memory.read : Memory → Nat → Option Byte
  | [], _ => none
  | (b, v) :: m, a => if a = b then some v else Memory.read m a

/-- `MemWrite(S:a, 1, v)`, keeping offsets strictly rising (00_scope.md R11). -/
def Memory.write : Memory → Nat → Byte → Memory
  | [], a, v => [(a, v)]
  | (b, u) :: m, a, v =>
      if a < b then (a, v) :: (b, u) :: m
      else if a = b then (a, v) :: m
      else (b, u) :: Memory.write m a v

/-- Write the bytes `vs` at `a`, `a + 1`, …, one byte at a time (20_memory.md R54). -/
def Memory.writeList : Memory → Nat → List Byte → Memory
  | m, _, [] => m
  | m, a, v :: vs => Memory.writeList (Memory.write m a v) (a + 1) vs

/-- Read the `n` bytes at `a`, `a + 1`, …; `none` if one of them holds no value. -/
def Memory.readList : Memory → Nat → Nat → Option (List Byte)
  | _, _, 0 => some []
  | m, a, n + 1 =>
      match Memory.read m a, Memory.readList m (a + 1) n with
      | some v, some vs => some (v :: vs)
      | _, _ => none

/-- The canonical form of a store of `size` bytes: offsets strictly rising, each below `size`. (An unlisted byte holds no
value, so no entry can equal what an unlisted offset reads as.) -/
abbrev Memory.wf (size : Nat) (m : Memory) : Prop :=
  m.Pairwise (fun x y => x.1 < y.1) ∧ ∀ c ∈ m, c.1 < size

/-! ### Outcomes -/

/-- Do `o`, then `k` on the state it leaves; a fault or a refusal ends the sequence (00_scope.md R12, 43_dispatch.md R207). -/
def andThen (o : Out) (k : State → Out) : Out :=
  match o with
  | .next s => k s
  | .fault f => .fault f
  | .refused r => .refused r

/-- Read a state element and go on with its value; a read of an element that holds no value faults (10_state.md R37;
92_eei_decisions.md D18, 93_implementation_defined.md I5). -/
def readElement {α : Type} (e : Element) (value : Option α) (k : α → Out) : Out :=
  match value with
  | some v => k v
  | none => .fault (.unwritten e)

/-- Apply operations one after another by `ex`, up to the first that stops (20_memory.md R59, 43_dispatch.md R207). -/
def applyAll {α : Type} (ex : α → State → Out) : List α → State → Out
  | [], s => .next s
  | x :: xs, s => andThen (ex x s) (applyAll ex xs)

/-- The legal configurations (00_scope.md R7, 60_exceptions.md R222). -/
def configLegal (c : Config) : Bool :=
  decide (3 ≤ c.rxCapacity) && decide (1 ≤ c.clockW) && decide (c.rxTimeout < 2 ^ c.clockW)

/-- Every operation under an illegal configuration is refused `BadConfig` (60_exceptions.md R222, 43_dispatch.md R207). -/
def guardConfig (s : State) (o : Out) : Out :=
  if configLegal s.cfg then o else .refused .badConfig

/-! ### Updates -/

/-- Return a result to the host (43_dispatch.md R207). -/
def reply (r : OpResult) (s : State) : State := { s with results := s.results ++ [r] }

/-- `RS <- START`: abandon a partial message, or reject a stray byte (40_request_reader.md R101, R102). -/
def toStart (s : State) : State := { s with rs := .start }

/-- `WPOS <- 0 ; T0 <- now ; RS <- COLLECT` (40_request_reader.md R102). -/
def beginMessage (now : Nat) (s : State) : State :=
  { s with wpos := 0, t0 := some (clockReading s.cfg.clockW now), rs := .collect }

/-- `MemWrite(RXB:WPOS, 1, b) ; WPOS <- WPOS + 1` (40_request_reader.md R103). -/
def storeByte (b : Byte) (s : State) : State :=
  { s with rxb := Memory.write s.rxb s.wpos b, wpos := s.wpos + 1 }

/-- `RS <- DONE` (40_request_reader.md R104). -/
def complete (s : State) : State := { s with rs := .done }

/-- `RS <- START ; WPOS <- 0` (40_request_reader.md R103 on overflow, R110). -/
def clearReader (s : State) : State := { s with rs := .start, wpos := 0 }

/-- `VR <- v` (41_consensus.md R140). -/
def setVR (v : VoteResult) (s : State) : State := { s with vr := some v }

/-- The number a message size stands for (10_state.md R30). -/
def sizeBytes : MsgSize → Nat
  | .three => 3
  | .four => 4
  | .twelve => 12

/-- `MemWrite(MB:k, 1, m[k])` for every byte of a message, and `MSIZE` (42_response_encoder.md R171 to R173). -/
def loadMessage (size : MsgSize) (bytes : List Byte) (s : State) : State :=
  { s with mb := Memory.writeList s.mb 0 bytes, msize := some size }

/-- `TX <- TX ++ bytes` (42_response_encoder.md R174). -/
def transmit (bytes : List Byte) (s : State) : State := { s with tx := s.tx ++ bytes }

/-! ### The host's next operation -/

/-- Put an operation where the next step takes it. -/
def presentInput (h : HostInput) (s : State) : State := { s with host := h :: s.host }

/-- What the host has left to apply becomes `rest`. -/
def setHost (rest : List HostInput) (s : State) : State := { s with host := rest }

/-- One step: take the host's next operation, decode it and apply it by `ex`; received bytes that are no legal request are
PROCESSed one by one (30_encoding.md R81, R82); the refusals are those of 60_exceptions.md R222 and log 14. With no operation pending nothing happens,
since the block has no step of its own (10_state.md R20, 60_exceptions.md R233; log 6). -/
def stepWith (ex : Instr → State → Out) (s : State) : Out :=
  match s.host with
  | [] => .next s
  | h :: rest =>
      match decode s.cfg.clockW h with
      | .ok i => ex i (setHost rest s)
      | .error .badCommand => .refused .badCommand
      | .error (.otherBytes pushes) => applyAll ex pushes (setHost rest s)
      | .error .badMessage => .refused .badMessage

end Sys2Proof.Machine
end

