-- ==== Sys2Proof/Machine/Consensus.lean ====
section
/-!
DEFINITION. The Consensus Engine: VOTE (41_consensus.md). All arithmetic is on mathematical integers (R149).
-/

namespace Sys2Proof.Machine

/-- The temperature a reading shows in the result: raw if valid, else 0 (R141). -/
def shownTemp (r : Reading) : Temp := if r.valid then r.temp else 0#16

/-- What a sensor contributes to `sum_agree` (R140 step 5). -/
def summand (agree : Bool) (r : Reading) : Int := if agree then r.temp.toInt else 0

/-- `tdiv(sum, count)` as an int16 pattern (R144; it fits, so nothing is lost). -/
def average (sum : Int) (count : Nat) : Temp := BitVec.ofInt 16 (Int.tdiv sum (count : Int))

/-- The result of a vote at tolerance `tol` (R140). -/
def voteResult (tol : Int) (r0 r1 r2 : Reading) : VoteResult :=
  let a0 := agreeFlag tol r0 r1 r2
  let a1 := agreeFlag tol r1 r0 r2
  let a2 := agreeFlag tol r2 r0 r1
  let countAgree := countFlags a0 a1 a2
  let sumAgree := summand a0 r0 + summand a1 r1 + summand a2 r2
  if countFlags r0.valid r1.valid r2.valid < 2 then
    { status := voteStatusOrdinal .sensorError, agree0 := false, agree1 := false, agree2 := false,
      temp0 := shownTemp r0, temp1 := shownTemp r1, temp2 := shownTemp r2, avg := 0#16 }
  else if 2 ≤ countAgree then
    { status := voteStatusOrdinal .ok, agree0 := a0, agree1 := a1, agree2 := a2,
      temp0 := shownTemp r0, temp1 := shownTemp r1, temp2 := shownTemp r2, avg := average sumAgree countAgree }
  else
    { status := voteStatusOrdinal .disagree, agree0 := a0, agree1 := a1, agree2 := a2,
      temp0 := shownTemp r0, temp1 := shownTemp r1, temp2 := shownTemp r2, avg := 0#16 }

/-- `VOTE (v0,t0), (v1,t1), (v2,t2)`: writes every field of `VR` and returns it (R140). -/
def execVote (r0 r1 r2 : Reading) (s : State) : Out :=
  guardConfig s
    (.next (reply (.voted (voteResult s.cfg.tol r0 r1 r2)) (setVR (voteResult s.cfg.tol r0 r1 r2) s)))

end Sys2Proof.Machine
end

