-- ==== Sys2Proof/Machine/Encoder.lean ====
section
/-!
DEFINITION. The Response Encoder and serializer: ENC_TEMP, ENC_SYS, ENC_ERR and SEND (42_response_encoder.md).
-/

namespace Sys2Proof.Machine

/-- `ENC_TEMP st, [a0 a1 a2], p0, p1, p2, avg` (R171, R177). -/
def execEncTemp (st : Byte) (a0 a1 a2 : Bool) (p0 p1 p2 avg : Temp) (s : State) : Out :=
  guardConfig s (.next (loadMessage .twelve (temperatureMessage st a0 a1 a2 p0 p1 p2 avg) s))

/-- `ENC_SYS ss, [g0 g1 g2]` (R172). -/
def execEncSys (ss : Byte) (g0 g1 g2 : Bool) (s : State) : Out :=
  guardConfig s (.next (loadMessage .four (systemStatusMessage ss g0 g1 g2) s))

/-- `ENC_ERR ec` (R173). -/
def execEncErr (ec : Byte) (s : State) : Out :=
  guardConfig s (.next (loadMessage .three (errorMessage ec) s))

/-- `SEND` (R174): append `MB[0 .. MSIZE-1]` to `TX`, byte 0 first. -/
def execSend (s : State) : Out :=
  guardConfig s
    (match s.msize with
    | none => .fault .sendUnwritten
    | some size =>
        readElement .mb (Memory.readList s.mb 0 (sizeBytes size)) fun bytes => .next (transmit bytes s))

end Sys2Proof.Machine
end

