-- ==== Sys2Proof/Machine/RequestReader.lean ====
section
/-!
DEFINITION. The Request Reader: PROCESS, RESET and GET_DATA (40_request_reader.md).
-/

namespace Sys2Proof.Machine

/-- Step 1 of `PROCESS`, the receive timeout, only in `COLLECT` and inclusive (R101). -/
def checkTimeout (now : Nat) (s : State) : Out :=
  match s.rs with
  | .collect =>
      readElement .t0 s.t0 fun t0 =>
        if s.cfg.rxTimeout ≤ elapsed s.cfg.clockW now t0 then .next (toStart s) else .next s
  | .start => .next s
  | .done => .next s

/-- Steps 3 and 4 of `PROCESS`, append and completion (R103, R104). -/
def appendByte (b : Byte) (s : State) : State :=
  if s.wpos < s.cfg.rxCapacity then
    if s.wpos + 1 = requestSize then reply (.reqAvail true) (complete (storeByte b s))
    else reply (.reqAvail false) (storeByte b s)
  else reply (.reqAvail false) (clearReader s)

/-- Step 2 of `PROCESS` for a byte that begins a message, and then steps 3 and 4 (R102). -/
def firstByte (b : Byte) (now : Nat) (s : State) : State :=
  if b = requestTag then appendByte b (beginMessage now s)
  else reply (.reqAvail false) (toStart (beginMessage now s))

/-- Steps 2 to 4 of `PROCESS` (R100). -/
def handleByte (b : Byte) (now : Nat) (s : State) : State :=
  match s.rs with
  | .collect => appendByte b s
  | .start => firstByte b now s
  | .done => firstByte b now s

/-- `PROCESS b, @now` (R100). -/
def execProcess (b : Byte) (now : Nat) (s : State) : Out :=
  guardConfig s (andThen (checkTimeout now s) fun s1 => .next (handleByte b now s1))

/-- `RESET` (R110). -/
def execReset (s : State) : Out := guardConfig s (.next (clearReader s))

/-- The four checks of `GET_DATA` on a frame, in the source's order (R120, R121). -/
def decodeFrame (wpos : Nat) (b0 b1 b2 : Byte) : OpResult :=
  if wpos ≠ requestSize then .data false .unknown
  else if b0 ≠ requestTag then .data false .unknown
  else if b0 ^^^ b1 ≠ b2 then .data false .unknown
  else if b1 = 0#8 then .data true .temperature
  else if b1 = 1#8 then .data true .systemStatus
  else .data false .unknown

/-- `GET_DATA` (R120): it writes no state and returns its result (R122). -/
def execGetData (s : State) : Out :=
  guardConfig s
    (match s.rs with
    | .done =>
        readElement .rxb (Memory.read s.rxb 0) fun b0 =>
          readElement .rxb (Memory.read s.rxb 1) fun b1 =>
            readElement .rxb (Memory.read s.rxb 2) fun b2 => .next (reply (decodeFrame s.wpos b0 b1 b2) s)
    | .start => .next (reply (.data false .unknown) s)
    | .collect => .next (reply (.data false .unknown) s))

end Sys2Proof.Machine
end

