-- ==== Sys2Proof/Machine/Wire.lean ====
section
/-!
DEFINITION. The wire-message rows of spec/opcode_table.json (30_encoding.md R73 to R76), each read as that message crossing
the wire (log 8, 9, 10): a request arrives byte by byte (`PUSH_REQ` of R86), a response is encoded and sent (R200).
-/

namespace Sys2Proof.Machine

/-- Three bytes arrive, each at its clock reading (`PUSH`, 30_encoding.md R86). -/
def pushThree (b0 b1 b2 : Byte) (n0 n1 n2 : Nat) (s : State) : Out :=
  andThen (execProcess b0 n0 s) fun s1 =>
    andThen (execProcess b1 n1 s1) fun s2 => execProcess b2 n2 s2

/-- `REQ_TEMPERATURE`: the request `04 00 04` arrives (R73, 40_request_reader.md R106). -/
def execReqTemperature (n0 n1 n2 : Nat) (s : State) : Out := pushThree 0x04#8 0x00#8 0x04#8 n0 n1 n2 s

/-- `REQ_SYSTEM_STATUS`: the request `04 01 05` arrives (R73, 40_request_reader.md R106). -/
def execReqSystemStatus (n0 n1 n2 : Nat) (s : State) : Out := pushThree 0x04#8 0x01#8 0x05#8 n0 n1 n2 s

/-- `RSP_TEMPERATURE`: the response is encoded (R171) and sent (R174). The last byte is always the checksum the encoder
computes (R72), whatever `_k` is, and byte 1 is clamped (R80): log 10. -/
def execRspTemperature (st : Byte) (p0 p1 p2 : Temp) (a0 a1 a2 : Bool) (avg : Temp) (_k : Byte) (s : State) : Out :=
  andThen (execEncTemp st a0 a1 a2 p0 p1 p2 avg s) execSend

/-- `RSP_SYSTEM_STATUS`: the response is encoded (R172) and sent (R174); `_k` as for `execRspTemperature`. -/
def execRspSystemStatus (ss : Byte) (g0 g1 g2 : Bool) (_k : Byte) (s : State) : Out :=
  andThen (execEncSys ss g0 g1 g2 s) execSend

/-- `RSP_ERROR`: the response is encoded (R173) and sent (R174); `_k` as for `execRspTemperature`. -/
def execRspError (ec : Byte) (_k : Byte) (s : State) : Out :=
  andThen (execEncErr ec s) execSend

end Sys2Proof.Machine
end

