-- ==== Sys2Proof/Machine/Dispatch.lean ====
section
/-!
DEFINITION. One arm per constructor of `Instr`, each one call of that instruction's meaning.
-/

namespace Sys2Proof.Machine

def exec (i : Instr) (s : State) : Host.Outcome State Fault Refusal :=
  match i with
  | .process b now => Sys2Proof.Machine.execProcess b now s
  | .reset => Sys2Proof.Machine.execReset s
  | .getData => Sys2Proof.Machine.execGetData s
  | .vote r0 r1 r2 => Sys2Proof.Machine.execVote r0 r1 r2 s
  | .encTemp st a0 a1 a2 p0 p1 p2 avg => Sys2Proof.Machine.execEncTemp st a0 a1 a2 p0 p1 p2 avg s
  | .encSys ss g0 g1 g2 => Sys2Proof.Machine.execEncSys ss g0 g1 g2 s
  | .encErr ec => Sys2Proof.Machine.execEncErr ec s
  | .send => Sys2Proof.Machine.execSend s
  | .reqTemperature n0 n1 n2 => Sys2Proof.Machine.execReqTemperature n0 n1 n2 s
  | .reqSystemStatus n0 n1 n2 => Sys2Proof.Machine.execReqSystemStatus n0 n1 n2 s
  | .rspTemperature st p0 p1 p2 a0 a1 a2 avg k => Sys2Proof.Machine.execRspTemperature st p0 p1 p2 a0 a1 a2 avg k s
  | .rspSystemStatus ss g0 g1 g2 k => Sys2Proof.Machine.execRspSystemStatus ss g0 g1 g2 k s
  | .rspError ec k => Sys2Proof.Machine.execRspError ec k s

end Sys2Proof.Machine
end

