-- ==== Sys2Proof/Machine/Step.lean ====
section
/-!
DEFINITION. One step of the machine, and the placing of an instruction where the next step takes it.
-/

namespace Sys2Proof.Machine

/-- One step: the host's next operation is decoded and applied (10_state.md R20, R31). -/
def step (s : State) : Host.Outcome State Fault Refusal := stepWith exec s

/-- `s` with the row of spec/opcode_table.json whose bits are `w` presented as the host's next operation (log 6, 8). -/
def State.withFetchWord (s : State) (nbits w : Nat) : State := presentInput (tableInput nbits w) s

end Sys2Proof.Machine
end

