-- ==== Sys2Proof/Machine/Run.lean ====
section
/-!
DEFINITION. Runs and their observation (43_dispatch.md R207): a finite sequence of what the host presents, malformed command
words among them, applied from a state up to the first fault or refusal.
-/

namespace Sys2Proof.Machine

/-- Apply operations one after another. -/
def runOps (ops : List Instr) (s : State) : Out := applyAll exec ops s

/-- Present one operation and take the step that applies it. -/
def applyInput (h : HostInput) (s : State) : Out := step (presentInput h s)

/-- Present and apply operations one after another. -/
def runInputs (inputs : List HostInput) (s : State) : Out := applyAll applyInput inputs s

/-- How a run ended (R207). -/
inductive Ending where
  | completed
  | faulted (f : Fault)
  | refused (r : Refusal)
deriving DecidableEq, Repr

/-- The observation of a run (R207): the results and `TX`, marked with how the run ended. -/
structure Observation where
  ending : Ending
  results : List OpResult
  tx : List Byte
deriving DecidableEq, Repr

/-- The observation of a run that ends in `s` so. -/
def observeAt (ending : Ending) (s : State) : Observation := { ending := ending, results := s.results, tx := s.tx }

/-- The observation of a run from a state. A run that faults or is refused ends at that operation: what was returned and sent
before it stays, and the rest of the sequence is not applied (R207). -/
def observe : List HostInput → State → Observation
  | [], s => observeAt .completed s
  | h :: inputs, s =>
      match applyInput h s with
      | .next t => observe inputs t
      | .fault f => observeAt (.faulted f) s
      | .refused r => observeAt (.refused r) s

/-- The observation of a run under a configuration: it starts from the power-on state (R207). -/
def observeRun (c : Config) (inputs : List HostInput) : Observation := observe inputs (State.powerOn c)

end Sys2Proof.Machine
end

