-- ==== Sys2Proof/Machine/Respond.lean ====
section
/-!
DEFINITION. The pseudo-operations of 30_encoding.md R86 and the reference dispatcher sequence RESPOND of 43_dispatch.md
R208, as sequences of the block's operations. They are the host's, not instructions (00_scope.md R4; log 16).
-/

namespace Sys2Proof.Machine

/-- `PUSH <b0> ... <bn>, @<now>` (30_encoding.md R86). -/
def pushOps (bytes : List Byte) (now : Nat) : List Instr := bytes.map fun b => .process b now

/-- `PUSH_REQ <t>, @<now>` (30_encoding.md R86). -/
def pushReqOps (t : Byte) (now : Nat) : List Instr := pushOps [requestTag, t, requestTag ^^^ t] now

/-- What `ENC_TEMP VR` expands to (30_encoding.md R86): the host supplies the operands from `VR`. While `VR` is unwritten there is
no value to supply and so no operation to issue (10_state.md R29, R37; log 16). -/
def encTempVR (s : State) : Option Instr :=
  s.vr.map fun v => .encTemp v.status v.agree0 v.agree1 v.agree2 v.temp0 v.temp1 v.temp2 v.avg

/-- The host's inputs to `RESPOND` (43_dispatch.md R208). -/
structure RespondInputs where
  sysFail : Bool
  r0 : Reading
  r1 : Reading
  r2 : Reading
  ss : Byte
  g0 : Bool
  g1 : Bool
  g2 : Bool
deriving DecidableEq, Repr

/-- The part of `RESPOND` after `GET_DATA`, which goes by the result just returned (43_dispatch.md R202, R203). -/
def respondDecoded (p : RespondInputs) (s : State) : Out :=
  match s.results.getLast? with
  | some (.data true .temperature) =>
      andThen (exec (.vote p.r0 p.r1 p.r2) s) fun s1 => runOps ((encTempVR s1).toList ++ [.send]) s1
  | some (.data true .systemStatus) => runOps [.encSys p.ss p.g0 p.g1 p.g2, .send] s
  | _ => runOps [.encErr (errorCodeOrdinal .badRequest), .send] s

/-- `RESPOND(sys_fail, r0, r1, r2, ss, g0, g1, g2)` (43_dispatch.md R208; R201 comes first, R225). -/
def respond (p : RespondInputs) (s : State) : Out :=
  if p.sysFail then runOps [.encErr (errorCodeOrdinal .systemFailure), .send] s
  else andThen (exec .getData s) (respondDecoded p)

end Sys2Proof.Machine
end

