-- ==== Sys2Proof/Safety.lean ====
section
/-!
DEFINITION. What statements about the block are said in: the invariants of the state (10_state.md R36, R37; 41_consensus.md
R147; 42_response_encoder.md R176), the three situations of a byte that arrives, what no run can show (10_state.md R35),
and which operations own which state (20_memory.md R61).
-/

namespace Sys2Proof.Machine

/-- The next state, if there is one. -/
def nextState : Out → Option State
  | .next s => some s
  | .fault _ => none
  | .refused _ => none

/-- The fault, if there is one. -/
def faultOf : Out → Option Fault
  | .next _ => none
  | .fault f => some f
  | .refused _ => none

/-- The refusal, if there is one. -/
def refusalOf : Out → Option Refusal
  | .next _ => none
  | .fault _ => none
  | .refused r => some r

/-! ### Invariants -/

/-- The reader's invariant (10_state.md R36). -/
def readerInv (s : State) : Bool :=
  match s.rs with
  | .start => decide (s.wpos = 0)
  | .collect => decide ((s.wpos = 1 ∨ s.wpos = 2) ∧ Memory.read s.rxb 0 = some requestTag ∧ s.t0.isSome = true)
  | .done => decide (s.wpos = 3 ∧ Memory.read s.rxb 0 = some requestTag)

/-- The bytes collected so far are written (10_state.md R24, 20_memory.md R57). -/
def collectedInv (s : State) : Bool := (Memory.readList s.rxb 0 s.wpos).isSome

/-- `T0` is a `CLOCK_W`-bit value (10_state.md R23). -/
def clockInv (s : State) : Bool :=
  match s.t0 with
  | none => true
  | some t0 => decide (t0 < 2 ^ s.cfg.clockW)

/-- Both byte stores are in canonical form and within their size (20_memory.md R50). -/
abbrev storesInv (s : State) : Prop :=
  Memory.wf s.cfg.rxCapacity s.rxb ∧ Memory.wf mbSize s.mb

/-- A byte sequence is a message the block emits: its length is that of its identifier, which is not the Request's
(30_encoding.md R70, R71), and its bytes XOR to 0 (R72). -/
def emittable (bytes : List Byte) : Bool :=
  match bytes with
  | [] => false
  | ident :: rest =>
      decide (ident ≠ requestTag) && decide (messageLength ident = some (rest.length + 1)) &&
        decide (xorsum (ident :: rest) = 0#8)

/-- `MB[0 .. MSIZE-1]`, if `MSIZE` and these bytes are written. -/
def bufferedMessage (s : State) : Option (List Byte) :=
  match s.msize with
  | none => none
  | some size => Memory.readList s.mb 0 (sizeBytes size)

/-- Once `MSIZE` is written, `MB` holds a message the block emits (42_response_encoder.md R176). -/
def messageInv (s : State) : Bool :=
  match s.msize with
  | none => true
  | some size =>
      match Memory.readList s.mb 0 (sizeBytes size) with
      | none => false
      | some bytes => emittable bytes

/-- What `VOTE` can have written to `VR` (41_consensus.md R146, R147). -/
def voteInv (s : State) : Bool :=
  match s.vr with
  | none => true
  | some v =>
      decide (v.status = 0#8 ∧ 2 ≤ countFlags v.agree0 v.agree1 v.agree2 ∨
        (v.status = 1#8 ∨ v.status = 2#8) ∧ countFlags v.agree0 v.agree1 v.agree2 = 0 ∧ v.avg = 0#16)

/-- The invariant of the machine. -/
abbrev MachineInv (s : State) : Prop :=
  readerInv s = true ∧ collectedInv s = true ∧ clockInv s = true ∧ storesInv s ∧ messageInv s = true ∧
    voteInv s = true

/-! ### A byte that arrives (40_request_reader.md R101, R102) -/

/-- A message is in progress and a byte at `now` comes too late for it (R101). -/
def timedOut (now : Nat) (s : State) : Bool :=
  match s.rs, s.t0 with
  | .collect, some t0 => decide (s.cfg.rxTimeout ≤ elapsed s.cfg.clockW now t0)
  | _, _ => false

/-- A message is in progress and a byte at `now` comes in time for it (R101). -/
def inTime (now : Nat) (s : State) : Bool :=
  match s.rs, s.t0 with
  | .collect, some t0 => decide (elapsed s.cfg.clockW now t0 < s.cfg.rxTimeout)
  | _, _ => false

/-- A byte at `now` begins a new message (R102). -/
def beginsMessage (now : Nat) (s : State) : Bool :=
  match s.rs with
  | .start => true
  | .done => true
  | .collect => timedOut now s

/-! ### What no run can show -/

/-- Two states that differ only in what no operation can show (10_state.md R35): `T0` outside `COLLECT`, the bytes of
`RXB` at or above `WPOS`, the bytes of `MB` at or above `MSIZE` (20_memory.md R57, R58), and `VR`, which no operation
reads (10_state.md R29). -/
abbrev SameView (s t : State) : Prop :=
  s.cfg = t.cfg ∧ s.rs = t.rs ∧ s.wpos = t.wpos ∧ (s.rs = .collect → s.t0 = t.t0) ∧
    Memory.readList s.rxb 0 s.wpos = Memory.readList t.rxb 0 t.wpos ∧
    s.msize = t.msize ∧ bufferedMessage s = bufferedMessage t ∧ s.tx = t.tx ∧ s.results = t.results

/-! ### Ownership (20_memory.md R61) -/

/-- The operations that may write `RS`, `WPOS`, `T0`, `RXB`. -/
def ownsReader : Instr → Bool
  | .process _ _ => true
  | .reset => true
  | .getData => false
  | .vote _ _ _ => false
  | .encTemp _ _ _ _ _ _ _ _ => false
  | .encSys _ _ _ _ => false
  | .encErr _ => false
  | .send => false
  | .reqTemperature _ _ _ => true
  | .reqSystemStatus _ _ _ => true
  | .rspTemperature _ _ _ _ _ _ _ _ _ => false
  | .rspSystemStatus _ _ _ _ _ => false
  | .rspError _ _ => false

/-- The operations that may write `VR`. -/
def ownsVote : Instr → Bool
  | .process _ _ => false
  | .reset => false
  | .getData => false
  | .vote _ _ _ => true
  | .encTemp _ _ _ _ _ _ _ _ => false
  | .encSys _ _ _ _ => false
  | .encErr _ => false
  | .send => false
  | .reqTemperature _ _ _ => false
  | .reqSystemStatus _ _ _ => false
  | .rspTemperature _ _ _ _ _ _ _ _ _ => false
  | .rspSystemStatus _ _ _ _ _ => false
  | .rspError _ _ => false

/-- The operations that may write `MB` and `MSIZE`. -/
def ownsBuffer : Instr → Bool
  | .process _ _ => false
  | .reset => false
  | .getData => false
  | .vote _ _ _ => false
  | .encTemp _ _ _ _ _ _ _ _ => true
  | .encSys _ _ _ _ => true
  | .encErr _ => true
  | .send => false
  | .reqTemperature _ _ _ => false
  | .reqSystemStatus _ _ _ => false
  | .rspTemperature _ _ _ _ _ _ _ _ _ => true
  | .rspSystemStatus _ _ _ _ _ => true
  | .rspError _ _ => true

/-- The operations that may write `TX`. -/
def ownsTransmit : Instr → Bool
  | .process _ _ => false
  | .reset => false
  | .getData => false
  | .vote _ _ _ => false
  | .encTemp _ _ _ _ _ _ _ _ => false
  | .encSys _ _ _ _ => false
  | .encErr _ => false
  | .send => true
  | .reqTemperature _ _ _ => false
  | .reqSystemStatus _ _ _ => false
  | .rspTemperature _ _ _ _ _ _ _ _ _ => true
  | .rspSystemStatus _ _ _ _ _ => true
  | .rspError _ _ => true

/-- The operations that return a result (30_encoding.md R85). -/
def returnsResult : Instr → Bool
  | .process _ _ => true
  | .reset => false
  | .getData => true
  | .vote _ _ _ => true
  | .encTemp _ _ _ _ _ _ _ _ => false
  | .encSys _ _ _ _ => false
  | .encErr _ => false
  | .send => false
  | .reqTemperature _ _ _ => true
  | .reqSystemStatus _ _ _ => true
  | .rspTemperature _ _ _ _ _ _ _ _ _ => false
  | .rspSystemStatus _ _ _ _ _ => false
  | .rspError _ _ => false

/-- The operation code of an operation, bits 2:0 of its command word (30_encoding.md R84); a wire row has none. -/
def operationCode : Instr → Option Nat
  | .process _ _ => some 0
  | .reset => some 1
  | .getData => some 2
  | .vote _ _ _ => some 3
  | .encTemp _ _ _ _ _ _ _ _ => some 4
  | .encSys _ _ _ _ => some 5
  | .encErr _ => some 6
  | .send => some 7
  | .reqTemperature _ _ _ => none
  | .reqSystemStatus _ _ _ => none
  | .rspTemperature _ _ _ _ _ _ _ _ _ => none
  | .rspSystemStatus _ _ _ _ _ => none
  | .rspError _ _ => none

end Sys2Proof.Machine
end

