-- ==== Sys2Proof/Certificates/Slice0/Obligations.lean ====
section
/-!
DEFINITION. The statements for the provers. Each docstring names the rule of spec/ the statement formalises. A legal
configuration (`configLegal`) is the premise of 60_exceptions.md R222, since every operation under an illegal one is refused. The result an
operation returns is read off as the entry it appends to `results`, the model's form of the observation of 43_dispatch.md R207
(log 5).
-/


open Sys2Proof Sys2Proof.Machine

/-! ### Reset, configuration, steps -/

/-- 70_reset_and_hazards.md R250: what power-on reset leaves, under every configuration. -/
def Obligations.PowerOnLeavesSpecValues : Prop :=
  ∀ (c : Config) (k : Nat),
    (State.powerOn c).rs = .start ∧ (State.powerOn c).wpos = 0 ∧ (State.powerOn c).t0 = none ∧
    Memory.read (State.powerOn c).rxb k = none ∧ (State.powerOn c).vr = none ∧
    Memory.read (State.powerOn c).mb k = none ∧ (State.powerOn c).msize = none ∧ (State.powerOn c).tx = [] ∧
    (State.powerOn c).cfg = c ∧ State.reset = State.powerOn State.reset.cfg

/-- The invariant holds at power-on under every configuration (10_state.md R36, R37). The model's choice in `MachineInv`: that the
byte stores are kept as sorted lists (DESIGN CHOICE, log 4). -/
def Obligations.PowerOnMeetsInvariant : Prop :=
  ∀ c : Config, MachineInv (State.powerOn c) ∧ MachineInv State.reset

/-- Every step keeps the invariant, in every state that meets it: the reader's invariant of 10_state.md R36, collected bytes
written (20_memory.md R57), `T0` in its width (R23), canonical byte stores, a valid message in `MB` once `MSIZE` is
written (42_response_encoder.md R176), and the invariants of `VR` (41_consensus.md R146, R147). -/
def Obligations.StepKeepsInvariant : Prop :=
  ∀ s t : State, MachineInv s → step s = .next t → MachineInv t

/-- 10_state.md R36: the reader's invariant holds after every run of operations from power-on under a legal configuration, `T0`
is written in `COLLECT`, and so the overflow branch of `PROCESS` is never taken. -/
def Obligations.ReaderInvariantOnEveryRun : Prop :=
  ∀ (c : Config) (ops : List Instr) (s : State), configLegal c = true → runOps ops (State.powerOn c) = .next s →
    (s.rs = .start → s.wpos = 0) ∧
    (s.rs = .collect → (s.wpos = 1 ∨ s.wpos = 2) ∧ Memory.read s.rxb 0 = some 0x04#8 ∧ ∃ t0, s.t0 = some t0) ∧
    (s.rs = .done → s.wpos = 3 ∧ Memory.read s.rxb 0 = some 0x04#8) ∧
    (s.rs = .collect → s.wpos < s.cfg.rxCapacity)

/-- When what the host presents decodes, a step is `exec` of the decoded instruction on the state without it; and a row of
the opcode table placed by `withFetchWord` is what the next step applies. -/
def Obligations.StepRunsDecodedInstruction : Prop :=
  (∀ (s : State) (h : HostInput) (rest : List HostInput) (i : Instr), s.host = h :: rest →
    decode s.cfg.clockW h = .ok i → step s = exec i { s with host := rest }) ∧
  (∀ (s : State) (nbits w : Nat) (i : Instr), decode s.cfg.clockW (tableInput nbits w) = .ok i →
    step (s.withFetchWord nbits w) = exec i s)

/-- 10_state.md R20, R31: with no operation pending nothing changes (that a step is then idle is log 6, DESIGN CHOICE). -/
def Obligations.StepWithoutOperationIsIdle : Prop :=
  ∀ s : State, s.host = [] → step s = .next s

/-- 30_encoding.md R87: all eight codes are assigned, and the only illegal command words are those with bits 7:3 non-zero,
which are refused; what a legal one carries fits its widths; an ordinal outside its enumeration is legal and is
clamped. The model's choices in it: the word comes from the host's queue (log 6), its bundle stands from bit 8 up and bits above
that are ignored (log 7), and it is refused before the configuration is looked at (log 11). -/
def Obligations.OnlyReservedBitsRefuseACommand : Prop :=
  ∀ (s : State) (w : Nat) (rest : List HostInput), s.host = .command w :: rest →
    (w / 8 % 32 ≠ 0 → step s = .refused .badCommand) ∧
    (w / 8 % 32 = 0 → ∃ i, operationCode i = some (w % 8) ∧ decode s.cfg.clockW (.command w) = .ok i ∧
      i.fits s.cfg.clockW = true ∧ step s = exec i { s with host := rest }) ∧
    (∀ (v : Byte) (t : State), configLegal s.cfg = true →
      (exec (.encErr v) s = .next t → Memory.read t.mb 1 = some (if v.toNat < 2 then v else 2#8)) ∧
      (∀ g0 g1 g2, exec (.encSys v g0 g1 g2) s = .next t →
        Memory.read t.mb 1 = some (if v.toNat < 3 then v else 3#8)) ∧
      (∀ a0 a1 a2 p0 p1 p2 avg, exec (.encTemp v a0 a1 a2 p0 p1 p2 avg) s = .next t →
        Memory.read t.mb 1 = some (if v.toNat < 3 then v else 3#8)))

/-- 60_exceptions.md R222, refusal BadConfig: under an illegal configuration every operation and every row is refused; under a
legal one none is. -/
def Obligations.IllegalConfigurationRefused : Prop :=
  ∀ (i : Instr) (s : State),
    (s.cfg.rxCapacity < 3 ∨ s.cfg.clockW < 1 ∨ 2 ^ s.cfg.clockW ≤ s.cfg.rxTimeout → exec i s = .refused .badConfig) ∧
    (¬(s.cfg.rxCapacity < 3 ∨ s.cfg.clockW < 1 ∨ 2 ^ s.cfg.clockW ≤ s.cfg.rxTimeout) → ∀ r, exec i s ≠ .refused r)

/-- 00_scope.md R5, R7: no step changes the configuration. -/
def Obligations.ConfigurationNeverChanges : Prop :=
  ∀ s t : State, step s = .next t → t.cfg = s.cfg

/-- 00_scope.md R12, 60_exceptions.md R222: in a state of the invariant, under a legal configuration, an operation ends in a
next state, or it is `SEND` before any encode and faults `SendUnwritten`; and no run from power-on, under any configuration and
whatever the host presents, ends in another fault. -/
def Obligations.EveryOperationCompletesOrIsSendUnwritten : Prop :=
  (∀ (i : Instr) (s : State), MachineInv s → configLegal s.cfg = true →
    (¬(i = .send ∧ s.msize = none) → ∃ t, exec i s = .next t) ∧
    (i = .send ∧ s.msize = none → exec i s = .fault .sendUnwritten)) ∧
  ∀ (c : Config) (inputs : List HostInput) (f : Fault), (observeRun c inputs).ending = .faulted f → f = .sendUnwritten

/-- 20_memory.md R61, 10_state.md R33: only PROCESS, RESET and the request rows write the reader's state; only VOTE writes
`VR`; only the encoders and the response rows write `MB` and `MSIZE`; only SEND and the response rows write `TX`; only the
operations with a result append to the results; nothing writes what the host has left to apply. -/
def Obligations.EachStateElementHasItsOwner : Prop :=
  ∀ (i : Instr) (s t : State), exec i s = .next t →
    (ownsReader i = false → t.rs = s.rs ∧ t.wpos = s.wpos ∧ t.t0 = s.t0 ∧ t.rxb = s.rxb) ∧
    (ownsVote i = false → t.vr = s.vr) ∧
    (ownsBuffer i = false → t.mb = s.mb ∧ t.msize = s.msize) ∧
    (ownsTransmit i = false → t.tx = s.tx) ∧
    (returnsResult i = false → t.results = s.results) ∧
    t.host = s.host

/-- 10_state.md R33, 43_dispatch.md R207: `TX` and the sequence of results only grow. -/
def Obligations.TransmitLogAndResultsOnlyGrow : Prop :=
  ∀ (ops : List Instr) (s t : State), runOps ops s = .next t →
    (∃ bytes, t.tx = s.tx ++ bytes) ∧ ∃ rs, t.results = s.results ++ rs

/-- 10_state.md R35, 20_memory.md R57, R58, 70_reset_and_hazards.md R251: `T0` outside `COLLECT`, `RXB` at or above `WPOS`,
`MB` at or above `MSIZE`, and `VR` show in no run: two states of the invariant that differ only there give the same observation
(43_dispatch.md R207) for every sequence the host presents, malformed command words among it. -/
def Obligations.HiddenStateNeverShows : Prop :=
  ∀ (inputs : List HostInput) (s t : State), MachineInv s → MachineInv t → SameView s t → observe inputs s = observe inputs t

/-- 00_scope.md R7: every `RX_CAPACITY` of 3 or more behaves identically, in every run (43_dispatch.md R207). -/
def Obligations.CapacityOfThreeOrMoreNeverShows : Prop :=
  ∀ (inputs : List HostInput) (c : Config) (capacity : Nat), configLegal c = true → 3 ≤ capacity →
    observeRun { c with rxCapacity := capacity } inputs = observeRun c inputs

/-- 43_dispatch.md R207, 60_exceptions.md R222: a run ends after its last operation, or at the first that faults or is refused;
its observation is the results and `TX` up to there, marked with how it ended, and nothing after that operation counts. A
command word with any of bits 7:3 set is such an end, under an illegal configuration too (log 11). -/
def Obligations.RunEndsAtTheFirstStop : Prop :=
  ∀ (before after : List HostInput) (h : HostInput) (s t : State), runInputs before s = .next t →
    observe before s = { ending := .completed, results := t.results, tx := t.tx } ∧
    (∀ u, applyInput h t = .next u → observe (before ++ h :: after) s = observe after u) ∧
    (∀ f, applyInput h t = .fault f →
      observe (before ++ h :: after) s = { ending := .faulted f, results := t.results, tx := t.tx }) ∧
    (∀ r, applyInput h t = .refused r →
      observe (before ++ h :: after) s = { ending := .refused r, results := t.results, tx := t.tx }) ∧
    (∀ w, w / 8 % 32 ≠ 0 → observe (before ++ .command w :: after) s =
      { ending := .refused .badCommand, results := t.results, tx := t.tx })

/-! ### Encoding -/

/-- Decoding an encoded instruction whose operands fit gives it back: no operand bit is dropped, for every `CLOCK_W`
(30_encoding.md R84, R85, R73 to R76; the layout of the bundles is log 7, DESIGN CHOICE). -/
def Obligations.DecodeOfEncodeIsTheInstruction : Prop :=
  ∀ (clockW : Nat) (i : Instr), i.fits clockW = true → decode clockW (encode clockW i) = .ok i

/-- 30_encoding.md R84: bits 2:0 of the command word select the operation, whatever bundle stands beside it, and a word with any
of bits 7:3 set is refused. The model's choices in it: the bundle stands above the word's 8 bits (log 7), the word comes from the
host's queue (log 6), and it is refused before the configuration is looked at (log 11). -/
def Obligations.CommandWordSelectsTheOperation : Prop :=
  ∀ (clockW w : Nat),
    (w % 256 = 0 → ∃ b now, decode clockW (.command w) = .ok (.process b now)) ∧
    (w % 256 = 1 → decode clockW (.command w) = .ok .reset) ∧
    (w % 256 = 2 → decode clockW (.command w) = .ok .getData) ∧
    (w % 256 = 3 → ∃ r0 r1 r2, decode clockW (.command w) = .ok (.vote r0 r1 r2)) ∧
    (w % 256 = 4 → ∃ st a0 a1 a2 p0 p1 p2 avg,
      decode clockW (.command w) = .ok (.encTemp st a0 a1 a2 p0 p1 p2 avg)) ∧
    (w % 256 = 5 → ∃ ss g0 g1 g2, decode clockW (.command w) = .ok (.encSys ss g0 g1 g2)) ∧
    (w % 256 = 6 → ∃ ec, decode clockW (.command w) = .ok (.encErr ec)) ∧
    (w % 256 = 7 → decode clockW (.command w) = .ok .send) ∧
    (w / 8 % 32 ≠ 0 → ∀ (s : State) (rest : List HostInput), s.host = .command w :: rest → step s = .refused .badCommand)

/-- What the decoder accepts of a response message, of a request whose clock readings fit `CLOCK_W`, and of a command word within
the width of its bundle, is what the encoder writes: no two encodings mean the same (30_encoding.md R84, R85, R73 to R76; bundle
layout log 7, lanes log 8, DESIGN CHOICE). -/
def Obligations.EncodeOfDecodeIsTheWord : Prop :=
  (∀ (clockW : Nat) (bytes : List Byte) (i : Instr), decode clockW (.response bytes) = .ok i →
    encode clockW i = .response bytes) ∧
  (∀ (clockW : Nat) (arrivals : List (Byte × Nat)) (i : Instr), decode clockW (.request arrivals) = .ok i →
    (∀ a ∈ arrivals, a.2 < 2 ^ clockW) → encode clockW i = .request arrivals) ∧
  (∀ (clockW w : Nat) (i : Instr), decode clockW (.command w) = .ok i →
    (w % 8 = 0 → w < 2 ^ (16 + clockW)) → (w % 8 = 1 ∨ w % 8 = 2 ∨ w % 8 = 7 → w < 2 ^ 8) → (w % 8 = 3 → w < 2 ^ 59) →
    (w % 8 = 4 → w < 2 ^ 83) → (w % 8 = 5 → w < 2 ^ 19) → (w % 8 = 6 → w < 2 ^ 16) →
    encode clockW i = .command w)

/-- 30_encoding.md R81, R82, R73: whatever bytes are received, a legal request or any others, a step does what `PROCESS` of each
of them does, in order, each at its own clock reading; none is refused (queue log 6, request rows log 9). -/
def Obligations.ReceivedBytesAreProcessedOneByOne : Prop :=
  ∀ (s : State) (arrivals : List (Byte × Nat)) (rest : List HostInput), s.host = .request arrivals :: rest →
    step s = runOps (arrivals.map fun a => .process a.1 (a.2 % 2 ^ s.cfg.clockW)) { s with host := rest }

/-- 30_encoding.md R70, R71, R74 to R76: of the bytes presented as an emitted message, exactly those with the identifier, the
length and the zero bits of a response decode, and are run; all others, which the block never emits, are refused `badMessage`
(the model's choice, log 14; the lane log 8). -/
def Obligations.OnlyResponsesDecodeAsEmitted : Prop :=
  ∀ (s : State) (bytes : List Byte) (rest : List HostInput), s.host = .response bytes :: rest →
    let isResponse := (bytes.length = 3 ∧ bytes[0]? = some 0x03#8) ∨
      (bytes.length = 4 ∧ bytes[0]? = some 0x02#8 ∧ ∃ f, bytes[2]? = some f ∧ f.toNat < 8) ∨
      (bytes.length = 12 ∧ bytes[0]? = some 0x01#8 ∧ ∃ f, bytes[8]? = some f ∧ f.toNat < 8)
    (isResponse → ∃ i, decode s.cfg.clockW (.response bytes) = .ok i ∧ encode s.cfg.clockW i = .response bytes ∧
      step s = exec i { s with host := rest }) ∧
    (¬isResponse → step s = .refused .badMessage)

/-- 30_encoding.md R87: what is decoded fits its widths. -/
def Obligations.DecodedOperandsFit : Prop :=
  ∀ (clockW : Nat) (h : HostInput) (i : Instr), decode clockW h = .ok i → i.fits clockW = true

/-- Words written out from 30_encoding.md R73 to R76, R84 and spec/opcode_table.json decode to their instructions. -/
def Obligations.SpecWordsDecode : Prop :=
  decodeTableWord 8 0x01 = some .reset ∧ decodeTableWord 8 0x07 = some .send ∧
  decodeTableWord 8 0x00 = some (.process 0x00#8 0) ∧
  decodeTableWord 24 0x040105 = some (.reqSystemStatus 0 0 0) ∧
  decodeTableWord 24 0x030102 = some (.rspError 0x01#8 0x02#8) ∧
  decodeTableWord 32 0x02030504 = some (.rspSystemStatus 0x03#8 true false true 0x04#8) ∧
  decodeTableWord 8 0x08 = none

/-! ### Request Reader -/

/-- 40_request_reader.md R102: the first byte of a message (`now` within its width, 30_encoding.md R85). -/
def Obligations.ProcessFirstByteBeginsOrIsStray : Prop :=
  ∀ (s : State) (b : Byte) (now : Nat), configLegal s.cfg = true → now < 2 ^ s.cfg.clockW → beginsMessage now s = true →
    ∃ t, exec (.process b now) s = .next t ∧
      t = { s with
            rs := (if b = 0x04#8 then .collect else .start), wpos := (if b = 0x04#8 then 1 else 0),
            t0 := some now, rxb := t.rxb,
            results := s.results ++ [.reqAvail false] } ∧
      (b = 0x04#8 → Memory.read t.rxb 0 = some 0x04#8) ∧
      (∀ a, (b = 0x04#8 → a ≠ 0) → Memory.read t.rxb a = Memory.read s.rxb a) ∧
      exec .getData t = .next { t with results := t.results ++ [.data false .unknown] }

/-- 40_request_reader.md R103: a later byte of a message in time is appended whatever its value, or, if the buffer is full, is
a framing failure that resets the reader; with the invariant the buffer is never full. -/
def Obligations.ProcessAppendsLaterByte : Prop :=
  ∀ (s : State) (b : Byte) (now : Nat), configLegal s.cfg = true → inTime now s = true →
    (s.wpos < s.cfg.rxCapacity → ∃ t, exec (.process b now) s = .next t ∧
      t = { s with
            rs := (if s.wpos + 1 = 3 then .done else .collect), wpos := s.wpos + 1, rxb := t.rxb,
            results := s.results ++ [.reqAvail (decide (s.wpos + 1 = 3))] } ∧
      Memory.read t.rxb s.wpos = some b ∧ ∀ a, a ≠ s.wpos → Memory.read t.rxb a = Memory.read s.rxb a) ∧
    (s.cfg.rxCapacity ≤ s.wpos → exec (.process b now) s =
      .next { s with rs := .start, wpos := 0, results := s.results ++ [.reqAvail false] }) ∧
    (readerInv s = true → (s.wpos = 1 ∨ s.wpos = 2) ∧ s.wpos < s.cfg.rxCapacity)

/-- 40_request_reader.md R101, 60_exceptions.md R223: in `COLLECT` the byte is handled as in `START` exactly from
`(now - T0) mod 2^CLOCK_W >= RX_TIMEOUT` on; otherwise the message is kept, with its `T0`; and outside `COLLECT` the outcome
does not depend on `T0`. -/
def Obligations.ProcessTimeoutIsInclusiveFromFirstByte : Prop :=
  (∀ (s : State) (b : Byte) (now t0 : Nat), configLegal s.cfg = true → s.rs = .collect → s.t0 = some t0 →
    ((s.cfg.rxTimeout : Int) ≤ ((now : Int) - t0) % 2 ^ s.cfg.clockW →
      exec (.process b now) s = exec (.process b now) { s with rs := .start }) ∧
    (((now : Int) - t0) % 2 ^ s.cfg.clockW < (s.cfg.rxTimeout : Int) → s.wpos < s.cfg.rxCapacity →
      ∃ t, exec (.process b now) s = .next t ∧ t.t0 = some t0 ∧ t.wpos = s.wpos + 1 ∧ t.rs ≠ .start)) ∧
  (∀ (s : State) (b : Byte) (now : Nat) (t0 : Option Nat), s.rs ≠ .collect →
    exec (.process b now) { s with t0 := t0 } = exec (.process b now) s)

/-- 40_request_reader.md R104: `req_avail` is true exactly on the `PROCESS` that appends the third byte, whatever the bytes
are; that one ends in `DONE`; a `PROCESS` in `DONE` leaves `WPOS` 1 or 0. -/
def Obligations.ReqAvailExactlyOnThirdByte : Prop :=
  ∀ (s t : State) (b : Byte) (now : Nat), exec (.process b now) s = .next t →
    ∃ avail, t.results = s.results ++ [.reqAvail avail] ∧
      (avail = true ↔ inTime now s = true ∧ s.wpos = 2) ∧
      (avail = true → t.rs = .done ∧ t.wpos = 3) ∧ (avail = false → t.rs ≠ .done) ∧
      (s.rs = .done → avail = false ∧ (t.wpos = 1 ∨ t.wpos = 0))

/-- 40_request_reader.md R106: from `COLLECT`, two more bytes in time, whatever they are, leave the reader in `DONE` after one or
two of them; and one more byte at or after the timeout is taken as the first byte of a new message. -/
def Obligations.CollectIsLeftWithinTwoBytes : Prop :=
  ∀ (s : State) (b1 b2 : Byte) (n1 n2 : Nat), configLegal s.cfg = true → MachineInv s → s.rs = .collect →
    (inTime n1 s = true → inTime n2 s = true →
      ∃ t, exec (.process b1 n1) s = .next t ∧
        (t.rs = .done ∨ t.rs = .collect ∧ ∃ u, exec (.process b2 n2) t = .next u ∧ u.rs = .done)) ∧
    (inTime n1 s = false → beginsMessage n1 s = true ∧
      ∃ t, exec (.process b1 n1) s = .next t ∧ t.rs = if b1 = 0x04#8 then .collect else .start)

/-- 40_request_reader.md R101, R105.7, 70_reset_and_hazards.md R256: the elapsed time is right across the wrap of the clock,
and `k` whole turns of the clock are not seen. -/
def Obligations.ClockWrapGivesSmallElapsed : Prop :=
  ∀ (s : State) (b : Byte) (t0 d k : Nat), s.rs = .collect → s.t0 = some t0 → d < 2 ^ s.cfg.clockW →
    (inTime ((t0 + k * 2 ^ s.cfg.clockW + d) % 2 ^ s.cfg.clockW) s = true ↔ d < s.cfg.rxTimeout) ∧
    exec (.process b ((t0 + k * 2 ^ s.cfg.clockW + d) % 2 ^ s.cfg.clockW)) s = exec (.process b (t0 + d)) s

/-- 40_request_reader.md R105.8, 70_reset_and_hazards.md R257: with `RX_TIMEOUT = 0` no run ever returns `req_avail` true. -/
def Obligations.ZeroTimeoutNeverCompletes : Prop :=
  ∀ (ops : List Instr) (s t : State), s.cfg.rxTimeout = 0 → .reqAvail true ∉ s.results → runOps ops s = .next t →
    .reqAvail true ∉ t.results

/-- 40_request_reader.md R110: `RESET`. -/
def Obligations.ResetClearsOnlyTheReader : Prop :=
  ∀ s : State, configLegal s.cfg = true →
    exec .reset s = .next { s with rs := .start, wpos := 0 } ∧
    (s.rs = .start → readerInv s = true → exec .reset s = .next s) ∧
    (s.rs = .done → ∃ t, exec .reset s = .next t ∧
      exec .getData t = .next { t with results := t.results ++ [.data false .unknown] })

/-- 40_request_reader.md R121: the four checks of `GET_DATA`; in `DONE` with the invariant the first two always pass. -/
def Obligations.GetDataChecksTheFrame : Prop :=
  ∀ (s : State) (b0 b1 b2 : Byte), configLegal s.cfg = true → s.rs = .done → Memory.read s.rxb 0 = some b0 →
    Memory.read s.rxb 1 = some b1 → Memory.read s.rxb 2 = some b2 →
    (∃ ok rtype, exec .getData s = .next { s with results := s.results ++ [.data ok rtype] } ∧
      (ok = true ↔ s.wpos = 3 ∧ b0 = 0x04#8 ∧ b0 ^^^ b1 = b2 ∧ b1.toNat < 2) ∧
      (ok = true → (requestTypeOrdinal rtype).toNat = b1.toNat) ∧ (ok = false → rtype = .unknown)) ∧
    (readerInv s = true → s.wpos = 3 ∧ b0 = 0x04#8)

/-- 40_request_reader.md R122, R123.1, R123.2: `GET_DATA` writes no state, fails outside `DONE`, and repeated gives the same
result. -/
def Obligations.GetDataWritesNoState : Prop :=
  (∀ s t : State, exec .getData s = .next t → ∃ ok rtype, t = { s with results := s.results ++ [.data ok rtype] } ∧
    (s.rs ≠ .done → ok = false ∧ rtype = .unknown) ∧
    exec .getData t = .next { s with results := s.results ++ [.data ok rtype] ++ [.data ok rtype] }) ∧
  (∀ s : State, configLegal s.cfg = true → s.rs ≠ .done →
    exec .getData s = .next { s with results := s.results ++ [.data false .unknown] })

/-- 70_reset_and_hazards.md R253: a completed request is lost by the next byte, whatever it is. -/
def Obligations.NextByteLosesThePendingRequest : Prop :=
  ∀ (s : State) (b : Byte) (now : Nat), configLegal s.cfg = true → s.rs = .done →
    ∃ t, runOps [.process b now, .getData] s = .next t ∧ t.rs ≠ .done ∧
      t.results = s.results ++ [.reqAvail false, .data false .unknown]

/-- 40_request_reader.md R106, 30_encoding.md R73: the Temperature request, arriving at a reader ready for a first byte and in
time, is framed and decodes. -/
def Obligations.TemperatureRequestArrives : Prop :=
  ∀ (s : State) (n0 n1 n2 : Nat), configLegal s.cfg = true → beginsMessage n0 s = true →
    ((n1 : Int) - n0) % 2 ^ s.cfg.clockW < s.cfg.rxTimeout → ((n2 : Int) - n0) % 2 ^ s.cfg.clockW < s.cfg.rxTimeout →
    ∃ t, exec (.reqTemperature n0 n1 n2) s = .next t ∧
      t = { s with rs := .done, wpos := 3, t0 := some (n0 % 2 ^ s.cfg.clockW), rxb := t.rxb,
                   results := s.results ++ [.reqAvail false, .reqAvail false, .reqAvail true] } ∧
      Memory.readList t.rxb 0 3 = some [0x04#8, 0x00#8, 0x04#8] ∧
      (∀ a, 3 ≤ a → Memory.read t.rxb a = Memory.read s.rxb a) ∧
      exec .getData t = .next { t with results := t.results ++ [.data true .temperature] }

/-- 40_request_reader.md R106, 30_encoding.md R73: the SystemStatus request, likewise. -/
def Obligations.SystemStatusRequestArrives : Prop :=
  ∀ (s : State) (n0 n1 n2 : Nat), configLegal s.cfg = true → beginsMessage n0 s = true →
    ((n1 : Int) - n0) % 2 ^ s.cfg.clockW < s.cfg.rxTimeout → ((n2 : Int) - n0) % 2 ^ s.cfg.clockW < s.cfg.rxTimeout →
    ∃ t, exec (.reqSystemStatus n0 n1 n2) s = .next t ∧
      t = { s with rs := .done, wpos := 3, t0 := some (n0 % 2 ^ s.cfg.clockW), rxb := t.rxb,
                   results := s.results ++ [.reqAvail false, .reqAvail false, .reqAvail true] } ∧
      Memory.readList t.rxb 0 3 = some [0x04#8, 0x01#8, 0x05#8] ∧
      (∀ a, 3 ≤ a → Memory.read t.rxb a = Memory.read s.rxb a) ∧
      exec .getData t = .next { t with results := t.results ++ [.data true .systemStatus] }

/-- A request row is `PUSH_REQ` with a clock reading for each byte (30_encoding.md R86; log 9, DESIGN CHOICE). -/
def Obligations.RequestRowsArePushedBytes : Prop :=
  ∀ (s : State) (n0 n1 n2 : Nat),
    exec (.reqTemperature n0 n1 n2) s =
      runOps [.process 0x04#8 n0, .process 0x00#8 n1, .process 0x04#8 n2] s ∧
    exec (.reqSystemStatus n0 n1 n2) s =
      runOps [.process 0x04#8 n0, .process 0x01#8 n1, .process 0x05#8 n2] s

/-! ### Consensus Engine -/

/-- 41_consensus.md R141, with the frame of `VOTE` (R140): the temperatures shown, and nothing but `VR` and the results
written. -/
def Obligations.VoteShowsValidTemperaturesOnly : Prop :=
  ∀ (s : State) (r0 r1 r2 : Reading), configLegal s.cfg = true →
    ∃ v, exec (.vote r0 r1 r2) s = .next { s with vr := some v, results := s.results ++ [.voted v] } ∧
      v.temp0 = (if r0.valid then r0.temp else 0#16) ∧ v.temp1 = (if r1.valid then r1.temp else 0#16) ∧
      v.temp2 = (if r2.valid then r2.temp else 0#16)

/-- 41_consensus.md R143, R149: the agreement flags, on mathematical integers, inclusive. -/
def Obligations.VoteAgreementIsWithinToleranceOfAValidPartner : Prop :=
  ∀ (s : State) (r0 r1 r2 : Reading), configLegal s.cfg = true →
    ∃ t v, exec (.vote r0 r1 r2) s = .next t ∧ t.vr = some v ∧
      (v.agree0 = true ↔ r0.valid = true ∧
        ((r1.valid = true ∧ |r0.temp.toInt - r1.temp.toInt| ≤ s.cfg.tol) ∨
          (r2.valid = true ∧ |r0.temp.toInt - r2.temp.toInt| ≤ s.cfg.tol))) ∧
      (v.agree1 = true ↔ r1.valid = true ∧
        ((r0.valid = true ∧ |r1.temp.toInt - r0.temp.toInt| ≤ s.cfg.tol) ∨
          (r2.valid = true ∧ |r1.temp.toInt - r2.temp.toInt| ≤ s.cfg.tol))) ∧
      (v.agree2 = true ↔ r2.valid = true ∧
        ((r0.valid = true ∧ |r2.temp.toInt - r0.temp.toInt| ≤ s.cfg.tol) ∨
          (r1.valid = true ∧ |r2.temp.toInt - r1.temp.toInt| ≤ s.cfg.tol)))

/-- 41_consensus.md R145, R142: the status by the numbers of valid and of agreeing sensors, and what it leaves of average, flags
and temperatures. -/
def Obligations.VoteStatusByCounts : Prop :=
  ∀ (s : State) (r0 r1 r2 : Reading), configLegal s.cfg = true →
    ∃ t v, exec (.vote r0 r1 r2) s = .next t ∧ t.vr = some v ∧
      (v.status = 1#8 ↔ r0.valid.toNat + r1.valid.toNat + r2.valid.toNat < 2) ∧
      (v.status = 0#8 ↔ 2 ≤ v.agree0.toNat + v.agree1.toNat + v.agree2.toNat) ∧
      (v.status = 2#8 ↔ 2 ≤ r0.valid.toNat + r1.valid.toNat + r2.valid.toNat ∧
        v.agree0.toNat + v.agree1.toNat + v.agree2.toNat < 2) ∧
      (v.status = 0#8 ∨ v.status = 1#8 ∨ v.status = 2#8) ∧
      (v.status ≠ 0#8 → v.avg = 0#16) ∧
      (v.status = 1#8 → v.agree0 = false ∧ v.agree1 = false ∧ v.agree2 = false) ∧
      v.temp0 = (if r0.valid then r0.temp else 0#16) ∧ v.temp1 = (if r1.valid then r1.temp else 0#16) ∧
      v.temp2 = (if r2.valid then r2.temp else 0#16)

/-- 41_consensus.md R144: when the status is OK the average is the truncating mean of the agreeing raw temperatures, and it
always fits in int16, so no bit of it is lost. -/
def Obligations.VoteAverageTruncatesTowardZero : Prop :=
  ∀ (s : State) (r0 r1 r2 : Reading), configLegal s.cfg = true →
    ∃ t v, exec (.vote r0 r1 r2) s = .next t ∧ t.vr = some v ∧
      (2 ≤ v.agree0.toNat + v.agree1.toNat + v.agree2.toNat →
        v.status = 0#8 ∧
        v.avg.toInt = Int.tdiv
          ((if v.agree0 then r0.temp.toInt else 0) + (if v.agree1 then r1.temp.toInt else 0) +
            (if v.agree2 then r2.temp.toInt else 0))
          ((v.agree0.toNat + v.agree1.toNat + v.agree2.toNat : Nat) : Int))

/-- 41_consensus.md R146: flags come in pairs, so OK means some pair of valid sensors within the tolerance and Disagree
none. -/
def Obligations.VoteFlagsComeInPairs : Prop :=
  ∀ (s : State) (r0 r1 r2 : Reading), configLegal s.cfg = true →
    ∃ t v, exec (.vote r0 r1 r2) s = .next t ∧ t.vr = some v ∧
      v.agree0.toNat + v.agree1.toNat + v.agree2.toNat ≠ 1 ∧
      (v.status = 0#8 ↔
        (r0.valid = true ∧ r1.valid = true ∧ |r0.temp.toInt - r1.temp.toInt| ≤ s.cfg.tol) ∨
        (r0.valid = true ∧ r2.valid = true ∧ |r0.temp.toInt - r2.temp.toInt| ≤ s.cfg.tol) ∨
        (r1.valid = true ∧ r2.valid = true ∧ |r1.temp.toInt - r2.temp.toInt| ≤ s.cfg.tol)) ∧
      (v.status = 2#8 ↔ v.status ≠ 0#8 ∧ 2 ≤ r0.valid.toNat + r1.valid.toNat + r2.valid.toNat)

/-- 41_consensus.md R147: the invariants of every `VR` that `VOTE` writes. -/
def Obligations.VoteResultMeetsItsInvariants : Prop :=
  ∀ (s t : State) (r0 r1 r2 : Reading), exec (.vote r0 r1 r2) s = .next t →
    ∃ v, t.vr = some v ∧ (v.status ≠ 0#8 → v.avg = 0#16) ∧
      (v.agree0 = true → r0.valid = true) ∧ (v.agree1 = true → r1.valid = true) ∧ (v.agree2 = true → r2.valid = true) ∧
      (r0.valid = false → v.temp0 = 0#16) ∧ (r1.valid = false → v.temp1 = 0#16) ∧ (r2.valid = false → v.temp2 = 0#16) ∧
      v.status.toNat ≤ 2 ∧
      (v.status = 0#8 → ∀ lo hi : Int,
        (v.agree0 = true → lo ≤ r0.temp.toInt ∧ r0.temp.toInt ≤ hi) →
        (v.agree1 = true → lo ≤ r1.temp.toInt ∧ r1.temp.toInt ≤ hi) →
        (v.agree2 = true → lo ≤ r2.temp.toInt ∧ r2.temp.toInt ≤ hi) → lo ≤ v.avg.toInt ∧ v.avg.toInt ≤ hi)

/-- 41_consensus.md R148.7 to R148.9: tolerance zero, negative, and wide. -/
def Obligations.VoteAtExtremeTolerances : Prop :=
  ∀ (s : State) (r0 r1 r2 : Reading), configLegal s.cfg = true →
    2 ≤ r0.valid.toNat + r1.valid.toNat + r2.valid.toNat →
    ∃ t v, exec (.vote r0 r1 r2) s = .next t ∧ t.vr = some v ∧
      (s.cfg.tol < 0 → v.status = 2#8 ∧ v.agree0 = false ∧ v.agree1 = false ∧ v.agree2 = false) ∧
      (s.cfg.tol = 0 →
        (v.agree0 = true ↔ r0.valid = true ∧
          ((r1.valid = true ∧ r0.temp = r1.temp) ∨ (r2.valid = true ∧ r0.temp = r2.temp))) ∧
        (v.agree1 = true ↔ r1.valid = true ∧
          ((r0.valid = true ∧ r1.temp = r0.temp) ∨ (r2.valid = true ∧ r1.temp = r2.temp))) ∧
        (v.agree2 = true ↔ r2.valid = true ∧
          ((r0.valid = true ∧ r2.temp = r0.temp) ∨ (r1.valid = true ∧ r2.temp = r1.temp)))) ∧
      (65535 ≤ s.cfg.tol → v.status = 0#8 ∧ v.agree0 = r0.valid ∧ v.agree1 = r1.valid ∧ v.agree2 = r2.valid)

/-- 41_consensus.md R140, R143: the vote does not favour a sensor: exchanging two sensors exchanges their flags and
temperatures and leaves status and average as they were. -/
def Obligations.VoteTreatsSensorsAlike : Prop :=
  ∀ (s : State) (r0 r1 r2 : Reading), configLegal s.cfg = true →
    ∃ v, (∃ t, exec (.vote r0 r1 r2) s = .next t ∧ t.vr = some v) ∧
      (∃ t, exec (.vote r1 r0 r2) s = .next t ∧
        t.vr = some { v with agree0 := v.agree1, agree1 := v.agree0, temp0 := v.temp1, temp1 := v.temp0 }) ∧
      (∃ t, exec (.vote r0 r2 r1) s = .next t ∧
        t.vr = some { v with agree1 := v.agree2, agree2 := v.agree1, temp1 := v.temp2, temp2 := v.temp1 })

/-! ### Response Encoder and serializer -/

/-- 42_response_encoder.md R171: `ENC_TEMP`. -/
def Obligations.EncTempWritesTheMessage : Prop :=
  ∀ (s : State) (st : Byte) (a0 a1 a2 : Bool) (p0 p1 p2 avg : Temp), configLegal s.cfg = true →
    ∃ (t : State) (c k : Byte), exec (.encTemp st a0 a1 a2 p0 p1 p2 avg) s = .next t ∧
      t = { s with mb := t.mb, msize := some .twelve } ∧
      c.toNat = min st.toNat 3 ∧
      Memory.readList t.mb 0 12 = some
        [0x01#8, c, p0.setWidth 8, (p0 >>> 8).setWidth 8, p1.setWidth 8, (p1 >>> 8).setWidth 8,
          p2.setWidth 8, (p2 >>> 8).setWidth 8, BitVec.ofNat 8 (a0.toNat + 2 * a1.toNat + 4 * a2.toNat),
          avg.setWidth 8, (avg >>> 8).setWidth 8, k] ∧
      0x01#8 ^^^ c ^^^ p0.setWidth 8 ^^^ (p0 >>> 8).setWidth 8 ^^^ p1.setWidth 8 ^^^ (p1 >>> 8).setWidth 8 ^^^
        p2.setWidth 8 ^^^ (p2 >>> 8).setWidth 8 ^^^ BitVec.ofNat 8 (a0.toNat + 2 * a1.toNat + 4 * a2.toNat) ^^^
        avg.setWidth 8 ^^^ (avg >>> 8).setWidth 8 = k ∧
      ∀ a, 12 ≤ a → Memory.read t.mb a = Memory.read s.mb a

/-- 42_response_encoder.md R172: `ENC_SYS`. -/
def Obligations.EncSysWritesTheMessage : Prop :=
  ∀ (s : State) (ss : Byte) (g0 g1 g2 : Bool), configLegal s.cfg = true →
    ∃ (t : State) (c f : Byte), exec (.encSys ss g0 g1 g2) s = .next t ∧
      t = { s with mb := t.mb, msize := some .four } ∧
      c.toNat = min ss.toNat 3 ∧ f.toNat = g0.toNat + 2 * g1.toNat + 4 * g2.toNat ∧
      Memory.readList t.mb 0 4 = some [0x02#8, c, f, 0x02#8 ^^^ c ^^^ f] ∧
      ∀ a, 4 ≤ a → Memory.read t.mb a = Memory.read s.mb a

/-- 42_response_encoder.md R173: `ENC_ERR`. -/
def Obligations.EncErrWritesTheMessage : Prop :=
  ∀ (s : State) (ec : Byte), configLegal s.cfg = true →
    ∃ (t : State) (c : Byte), exec (.encErr ec) s = .next t ∧
      t = { s with mb := t.mb, msize := some .three } ∧
      c.toNat = min ec.toNat 2 ∧
      Memory.readList t.mb 0 3 = some [0x03#8, c, 0x03#8 ^^^ c] ∧
      ∀ a, 3 ≤ a → Memory.read t.mb a = Memory.read s.mb a

/-- 42_response_encoder.md R176: every message written satisfies the checksum law, begins with a response's identifier, and has
the length of its identifier. That the response rows encode too is the model's choice (log 10, DESIGN CHOICE). -/
def Obligations.EncodedMessagesMeetTheChecksumLaw : Prop :=
  ∀ (i : Instr) (s t : State), ownsBuffer i = true → exec i s = .next t →
    ∃ (size : MsgSize) (ident : Byte) (rest : List Byte), t.msize = some size ∧
      Memory.readList t.mb 0 (sizeBytes size) = some (ident :: rest) ∧
      rest.foldl (· ^^^ ·) ident = 0#8 ∧
      ((ident = 0x01#8 ∧ sizeBytes size = 12) ∨ (ident = 0x02#8 ∧ sizeBytes size = 4) ∨
        (ident = 0x03#8 ∧ sizeBytes size = 3))

/-- 20_memory.md R52, 30_encoding.md R78: a reader of the wire reassembles each int16 field of the Temperature response, at
offsets 2, 4, 6 and 9, as the value that was encoded. -/
def Obligations.TemperatureFieldsReadBack : Prop :=
  ∀ (s t : State) (st : Byte) (a0 a1 a2 : Bool) (p0 p1 p2 avg : Temp),
    exec (.encTemp st a0 a1 a2 p0 p1 p2 avg) s = .next t →
    ∀ (k : Nat) (v : Temp), (k, v) ∈ [(2, p0), (4, p1), (6, p2), (9, avg)] →
      ∃ lo hi : Byte, Memory.read t.mb k = some lo ∧ Memory.read t.mb (k + 1) = some hi ∧
        (BitVec.ofNat 16 (lo.toNat ||| hi.toNat <<< 8)).toInt = v.toInt

/-- 42_response_encoder.md R175: the encoders are functions of their operands alone: from any two states under legal
configurations they leave the same `MSIZE` and the same message. That the response rows encode too is the model's choice (log 10,
DESIGN CHOICE). -/
def Obligations.EncodersReadNoState : Prop :=
  ∀ (i : Instr) (s s' t : State), ownsBuffer i = true → configLegal s'.cfg = true → exec i s = .next t →
    ∃ t', exec i s' = .next t' ∧ t'.msize = t.msize ∧ bufferedMessage t' = bufferedMessage t

/-- 42_response_encoder.md R174: `SEND`. -/
def Obligations.SendAppendsTheMessage : Prop :=
  ∀ s : State, configLegal s.cfg = true →
    (∀ size bytes, s.msize = some size → Memory.readList s.mb 0 (sizeBytes size) = some bytes →
      exec .send s = .next { s with tx := s.tx ++ bytes }) ∧
    (s.msize = none → exec .send s = .fault .sendUnwritten) ∧
    (∀ t, exec .reset s = .next t → ∀ bytes u, bufferedMessage s = some bytes → exec .send t = .next u →
      u.tx = s.tx ++ bytes)

/-- 20_memory.md R55: `SEND` twice appends the message twice, and repeating an encode changes neither `MSIZE` nor a byte of
`MB`. That the response rows encode too is the model's choice (log 10, DESIGN CHOICE). -/
def Obligations.SendTwiceAppendsTwiceEncodeTwiceIsOnce : Prop :=
  (∀ (s : State) (bytes : List Byte), configLegal s.cfg = true → bufferedMessage s = some bytes →
    runOps [.send, .send] s = .next { s with tx := s.tx ++ bytes ++ bytes }) ∧
  (∀ (i : Instr) (s t u : State), ownsBuffer i = true → exec i s = .next t → exec i t = .next u →
    u.msize = t.msize ∧ ∀ a, Memory.read u.mb a = Memory.read t.mb a)

/-- The response rows encode their fields and send the message: what `SEND` after the encode of the same fields does, and the
last byte of the word has no effect (30_encoding.md R72, R74 to R76, R80; log 10, DESIGN CHOICE). -/
def Obligations.ResponseRowsEncodeAndSend : Prop :=
  ∀ (s : State) (st : Byte) (a0 a1 a2 : Bool) (p0 p1 p2 avg : Temp) (k : Byte), configLegal s.cfg = true →
    (∃ t bytes, exec (.rspTemperature st p0 p1 p2 a0 a1 a2 avg k) s = .next t ∧
      runOps [.encTemp st a0 a1 a2 p0 p1 p2 avg, .send] s = .next t ∧ bufferedMessage t = some bytes ∧
      t = { s with mb := t.mb, msize := some .twelve, tx := s.tx ++ bytes } ∧
      ∀ a, 12 ≤ a → Memory.read t.mb a = Memory.read s.mb a) ∧
    (∃ t bytes, exec (.rspSystemStatus st a0 a1 a2 k) s = .next t ∧
      runOps [.encSys st a0 a1 a2, .send] s = .next t ∧ bufferedMessage t = some bytes ∧
      t = { s with mb := t.mb, msize := some .four, tx := s.tx ++ bytes } ∧
      ∀ a, 4 ≤ a → Memory.read t.mb a = Memory.read s.mb a) ∧
    (∃ t bytes, exec (.rspError st k) s = .next t ∧
      runOps [.encErr st, .send] s = .next t ∧ bufferedMessage t = some bytes ∧
      t = { s with mb := t.mb, msize := some .three, tx := s.tx ++ bytes } ∧
      ∀ a, 3 ≤ a → Memory.read t.mb a = Memory.read s.mb a)

/-- A well-formed response row puts exactly its own bytes on the wire (30_encoding.md R72, R74 to R76, R80; log 10, DESIGN
CHOICE). -/
def Obligations.LawfulResponseIsSentAsPresented : Prop :=
  ∀ (i : Instr) (s : State) (bytes : List Byte), configLegal s.cfg = true → i.lawful = true →
    encode s.cfg.clockW i = .response bytes →
    ∃ t, exec i s = .next t ∧ t.tx = s.tx ++ bytes ∧ bufferedMessage t = some bytes

/-! ### Dispatcher -/

/-- 43_dispatch.md R201, 60_exceptions.md R225: on an upstream failure `RESPOND` sends `03 01 02` and issues no `GET_DATA`,
whatever was received. -/
def Obligations.RespondReportsSystemFailureFirst : Prop :=
  ∀ (p : RespondInputs) (s : State), configLegal s.cfg = true → p.sysFail = true →
    ∃ t, respond p s = .next t ∧ t = { s with mb := t.mb, msize := some .three, tx := s.tx ++ [0x03#8, 0x01#8, 0x02#8] }

/-- 43_dispatch.md R202: when `GET_DATA` fails after a framed request, `RESPOND` sends `03 00 03`. -/
def Obligations.RespondReportsBadRequest : Prop :=
  ∀ (p : RespondInputs) (s : State) (b0 b1 b2 : Byte), configLegal s.cfg = true → p.sysFail = false → s.rs = .done →
    Memory.readList s.rxb 0 3 = some [b0, b1, b2] → (b0 ^^^ b1 ≠ b2 ∨ 2 ≤ b1.toNat) →
    ∃ t, respond p s = .next t ∧ t.tx = s.tx ++ [0x03#8, 0x00#8, 0x03#8] ∧ t.rs = .done ∧
      t.results = s.results ++ [.data false .unknown]

/-- 43_dispatch.md R203, R204, R208: a Temperature request, arriving in time at a reader ready for it, is answered with the
Temperature response that carries the vote on the readings, whatever its status, and its checksum. That the request row is its
bytes arriving is log 9 (DESIGN CHOICE). -/
def Obligations.TemperaturePollIsAnswered : Prop :=
  ∀ (p : RespondInputs) (s : State) (n0 n1 n2 : Nat), configLegal s.cfg = true → p.sysFail = false →
    beginsMessage n0 s = true →
    ((n1 : Int) - n0) % 2 ^ s.cfg.clockW < s.cfg.rxTimeout → ((n2 : Int) - n0) % 2 ^ s.cfg.clockW < s.cfg.rxTimeout →
    ∃ t v f k, andThen (exec (.reqTemperature n0 n1 n2) s) (respond p) = .next t ∧
      (∃ u, exec (.vote p.r0 p.r1 p.r2) s = .next u ∧ u.vr = some v) ∧ t.vr = some v ∧
      t.tx = s.tx ++ [0x01#8, v.status, v.temp0.setWidth 8, (v.temp0 >>> 8).setWidth 8, v.temp1.setWidth 8,
        (v.temp1 >>> 8).setWidth 8, v.temp2.setWidth 8, (v.temp2 >>> 8).setWidth 8, f,
        v.avg.setWidth 8, (v.avg >>> 8).setWidth 8, k] ∧
      f.toNat = v.agree0.toNat + 2 * v.agree1.toNat + 4 * v.agree2.toNat ∧
      k = 0x01#8 ^^^ v.status ^^^ v.temp0.setWidth 8 ^^^ (v.temp0 >>> 8).setWidth 8 ^^^ v.temp1.setWidth 8 ^^^
        (v.temp1 >>> 8).setWidth 8 ^^^ v.temp2.setWidth 8 ^^^ (v.temp2 >>> 8).setWidth 8 ^^^ f ^^^
        v.avg.setWidth 8 ^^^ (v.avg >>> 8).setWidth 8 ∧
      t.results = s.results ++ [.reqAvail false, .reqAvail false, .reqAvail true, .data true .temperature, .voted v]

/-- 43_dispatch.md R203, R208: a SystemStatus request, arriving in time, is answered with the SystemStatus response that carries
the snapshot. That the request row is its bytes arriving is log 9 (DESIGN CHOICE). -/
def Obligations.SystemStatusPollIsAnswered : Prop :=
  ∀ (p : RespondInputs) (s : State) (n0 n1 n2 : Nat), configLegal s.cfg = true → p.sysFail = false →
    beginsMessage n0 s = true →
    ((n1 : Int) - n0) % 2 ^ s.cfg.clockW < s.cfg.rxTimeout → ((n2 : Int) - n0) % 2 ^ s.cfg.clockW < s.cfg.rxTimeout →
    ∃ t c f, andThen (exec (.reqSystemStatus n0 n1 n2) s) (respond p) = .next t ∧
      c.toNat = min p.ss.toNat 3 ∧ f.toNat = p.g0.toNat + 2 * p.g1.toNat + 4 * p.g2.toNat ∧
      t.tx = s.tx ++ [0x02#8, c, f, 0x02#8 ^^^ c ^^^ f] ∧ t.vr = s.vr ∧
      t.results = s.results ++ [.reqAvail false, .reqAvail false, .reqAvail true, .data true .systemStatus]

/-- 42_response_encoder.md R177, 41_consensus.md R147: with `ENC_TEMP VR` after `VOTE` every invariant of R147 holds on the
wire: the status byte is 0, 1 or 2, the average is 0 unless the status is OK and is otherwise between all bounds of the agreeing
temperatures, an agree bit implies validity, and an invalid sensor's temperature is 0. -/
def Obligations.VoteInvariantsReachTheWire : Prop :=
  ∀ (s : State) (r0 r1 r2 : Reading), configLegal s.cfg = true →
    ∃ (t u : State) (st l0 h0 l1 h1 l2 h2 f la ha : Byte),
      exec (.vote r0 r1 r2) s = .next t ∧ (∃ i, encTempVR t = some i ∧ exec i t = .next u) ∧
      Memory.readList u.mb 1 10 = some [st, l0, h0, l1, h1, l2, h2, f, la, ha] ∧
      st.toNat ≤ 2 ∧ (st ≠ 0#8 → la = 0#8 ∧ ha = 0#8) ∧ f.toNat < 8 ∧
      (f.getLsbD 0 = true → r0.valid = true) ∧ (f.getLsbD 1 = true → r1.valid = true) ∧
      (f.getLsbD 2 = true → r2.valid = true) ∧
      (r0.valid = false → l0 = 0#8 ∧ h0 = 0#8) ∧ (r1.valid = false → l1 = 0#8 ∧ h1 = 0#8) ∧
      (r2.valid = false → l2 = 0#8 ∧ h2 = 0#8) ∧
      (st = 0#8 → ∀ lo hi : Int,
        (f.getLsbD 0 = true → lo ≤ r0.temp.toInt ∧ r0.temp.toInt ≤ hi) →
        (f.getLsbD 1 = true → lo ≤ r1.temp.toInt ∧ r1.temp.toInt ≤ hi) →
        (f.getLsbD 2 = true → lo ≤ r2.temp.toInt ∧ r2.temp.toInt ≤ hi) →
        lo ≤ (BitVec.ofNat 16 (la.toNat ||| ha.toNat <<< 8)).toInt ∧
          (BitVec.ofNat 16 (la.toNat ||| ha.toNat <<< 8)).toInt ≤ hi)

/-- 42_response_encoder.md R177: `ENC_TEMP` enforces none of them on its own operands: beside every status it encodes the average,
the temperatures and the flags it is given. -/
def Obligations.EncTempEnforcesNoInvariant : Prop :=
  ∀ (s : State) (st : Byte) (a0 a1 a2 : Bool) (p0 p1 p2 avg : Temp), configLegal s.cfg = true → st.toNat ≤ 3 →
    ∃ (t : State) (l0 h0 l1 h1 l2 h2 f la ha : Byte),
      exec (.encTemp st a0 a1 a2 p0 p1 p2 avg) s = .next t ∧
      Memory.readList t.mb 1 10 = some [st, l0, h0, l1, h1, l2, h2, f, la, ha] ∧
      (BitVec.ofNat 16 (l0.toNat ||| h0.toNat <<< 8)) = p0 ∧ (BitVec.ofNat 16 (l1.toNat ||| h1.toNat <<< 8)) = p1 ∧
      (BitVec.ofNat 16 (l2.toNat ||| h2.toNat <<< 8)) = p2 ∧ (BitVec.ofNat 16 (la.toNat ||| ha.toNat <<< 8)) = avg ∧
      f.getLsbD 0 = a0 ∧ f.getLsbD 1 = a1 ∧ f.getLsbD 2 = a2
end

