-- ==== Sys2Proof/Laws/Memory.lean ====
section
/-!
SUPPORT. The laws of the byte stores: reading after writing, every other byte unchanged, and the canonical form kept.
-/

namespace Sys2Proof.Machine

@[simp] theorem Memory.read_nil (a : Nat) : Memory.read [] a = none := rfl

/-- A byte read after it is written is the byte written. -/
@[simp] theorem Memory.read_write_same (m : Memory) (a : Nat) (v : Byte) : Memory.read (Memory.write m a v) a = some v := by
  induction m with
  | nil => simp [Memory.write, Memory.read]
  | cons c m ih =>
    obtain ⟨b, u⟩ := c
    unfold Memory.write
    by_cases h1 : a < b
    · simp [h1, Memory.read]
    · by_cases h2 : a = b
      · simp [h2, Memory.read]
      · simp [h1, h2, Memory.read, ih]

/-- A write leaves every other byte as it was, written or not. -/
theorem Memory.read_write_other (m : Memory) {a a' : Nat} (v : Byte) (h : a' ≠ a) :
    Memory.read (Memory.write m a v) a' = Memory.read m a' := by
  induction m with
  | nil => simp [Memory.write, Memory.read, h]
  | cons c m ih =>
    obtain ⟨b, u⟩ := c
    unfold Memory.write
    by_cases h1 : a < b
    · simp [h1, Memory.read, h]
    · by_cases h2 : a = b
      · subst h2
        simp [Memory.read, h]
      · simp [h1, h2, Memory.read, ih]

/-- What a write can make listed. -/
theorem Memory.mem_write {m : Memory} {a : Nat} {v : Byte} {c : Host.Cell} (h : c ∈ Memory.write m a v) :
    c = (a, v) ∨ c ∈ m := by
  induction m with
  | nil => exact .inl (by simpa [Memory.write] using h)
  | cons d m ih =>
    obtain ⟨b, u⟩ := d
    unfold Memory.write at h
    split at h
    · simpa using h
    · split at h
      · rcases List.mem_cons.1 h with h | h
        · exact .inl h
        · exact .inr (List.mem_cons_of_mem _ h)
      · rcases List.mem_cons.1 h with h | h
        · exact .inr (h ▸ List.mem_cons_self)
        · exact (ih h).imp id (List.mem_cons_of_mem _)

/-- A write keeps offsets strictly rising. -/
theorem Memory.pairwise_write {m : Memory} (a : Nat) (v : Byte) (h : m.Pairwise fun x y => x.1 < y.1) :
    (Memory.write m a v).Pairwise fun x y => x.1 < y.1 := by
  induction m with
  | nil => simp [Memory.write]
  | cons c m ih =>
    obtain ⟨b, u⟩ := c
    obtain ⟨hb, hm⟩ := List.pairwise_cons.1 h
    unfold Memory.write
    split
    case isTrue hab =>
      refine List.pairwise_cons.2 ⟨fun d hd => ?_, h⟩
      rcases List.mem_cons.1 hd with rfl | hd
      · exact hab
      · exact Nat.lt_trans hab (hb d hd)
    case isFalse hab =>
      split
      case isTrue he =>
        subst he
        exact List.pairwise_cons.2 ⟨hb, hm⟩
      case isFalse he =>
        refine List.pairwise_cons.2 ⟨fun d hd => ?_, ih hm⟩
        rcases Memory.mem_write hd with rfl | hd
        · show b < a
          omega
        · exact hb d hd

/-- The empty store is canonical. -/
theorem Memory.wf_nil (size : Nat) : Memory.wf size [] := ⟨List.Pairwise.nil, by simp⟩

/-- A write within the store keeps its canonical form. -/
theorem Memory.wf_write {size : Nat} {m : Memory} {a : Nat} (v : Byte) (h : Memory.wf size m) (ha : a < size) :
    Memory.wf size (Memory.write m a v) := by
  refine ⟨Memory.pairwise_write a v h.1, fun c hc => ?_⟩
  rcases Memory.mem_write hc with rfl | hc
  · exact ha
  · exact h.2 c hc

/-- Writing a byte sequence within the store keeps its canonical form. -/
theorem Memory.wf_writeList {size : Nat} {m : Memory} {a : Nat} {vs : List Byte} (h : Memory.wf size m)
    (ha : a + vs.length ≤ size) : Memory.wf size (Memory.writeList m a vs) := by
  induction vs generalizing m a with
  | nil => exact h
  | cons v vs ih =>
    have hlen : a + (vs.length + 1) ≤ size := by simpa using ha
    exact ih (Memory.wf_write v h (by omega)) (by omega)

/-- Writing a byte sequence leaves every byte outside it as it was. -/
theorem Memory.read_writeList_other {m : Memory} {a a' : Nat} {vs : List Byte} (h : a' < a ∨ a + vs.length ≤ a') :
    Memory.read (Memory.writeList m a vs) a' = Memory.read m a' := by
  induction vs generalizing m a with
  | nil => rfl
  | cons v vs ih =>
    have hlen : a' < a ∨ a + (vs.length + 1) ≤ a' := by simpa using h
    show Memory.read (Memory.writeList (Memory.write m a v) (a + 1) vs) a' = _
    rw [ih (by omega), Memory.read_write_other _ _ (by omega)]

/-- A range reads alike in two stores that agree on its bytes. -/
theorem Memory.readList_congr {m m' : Memory} {a n : Nat}
    (h : ∀ k, a ≤ k → k < a + n → Memory.read m k = Memory.read m' k) :
    Memory.readList m a n = Memory.readList m' a n := by
  induction n generalizing a with
  | zero => rfl
  | succ n ih =>
    unfold Memory.readList
    rw [h a (by omega) (by omega), ih fun k h1 h2 => h k (by omega) (by omega)]

/-- A byte sequence read after it is written is the sequence written. -/
@[simp] theorem Memory.readList_writeList (m : Memory) (a : Nat) (vs : List Byte) :
    Memory.readList (Memory.writeList m a vs) a vs.length = some vs := by
  induction vs generalizing m a with
  | nil => rfl
  | cons v vs ih =>
    show Memory.readList (Memory.writeList (Memory.write m a v) (a + 1) vs) a (vs.length + 1) = _
    unfold Memory.readList
    rw [ih, Memory.read_writeList_other (by omega), Memory.read_write_same]

/-- A range that reads has the length asked for. -/
theorem Memory.length_of_readList {m : Memory} {a n : Nat} {vs : List Byte} (h : Memory.readList m a n = some vs) :
    vs.length = n := by
  induction n generalizing a vs with
  | zero => simp_all [Memory.readList]
  | succ n ih =>
    unfold Memory.readList at h
    split at h
    case h_1 v ws _ hw =>
      cases h
      simp [ih hw]
    case h_2 => cases h

/-- Each byte of a range that reads is the byte at its offset. -/
theorem Memory.read_of_readList {m : Memory} {a n : Nat} {vs : List Byte} (h : Memory.readList m a n = some vs) {k : Nat}
    (hk : k < n) : Memory.read m (a + k) = vs[k]? := by
  induction n generalizing a vs k with
  | zero => omega
  | succ n ih =>
    unfold Memory.readList at h
    split at h
    case h_1 v ws hv hw =>
      cases h
      cases k with
      | zero => simpa using hv
      | succ k =>
        have := ih hw (k := k) (by omega)
        rw [show a + (k + 1) = a + 1 + k by omega, this]
        simp
    case h_2 => cases h

/-- A range reads exactly if each of its bytes does. -/
theorem Memory.isSome_readList {m : Memory} {a n : Nat} :
    (Memory.readList m a n).isSome = true ↔ ∀ k, k < n → (Memory.read m (a + k)).isSome = true := by
  induction n generalizing a with
  | zero => simp [Memory.readList]
  | succ n ih =>
    unfold Memory.readList
    constructor
    · intro h k hk
      split at h
      case h_1 v ws hv hw =>
        cases k with
        | zero => simpa using Option.isSome_of_eq_some hv
        | succ k =>
          have := ih.1 (Option.isSome_of_eq_some hw) k (by omega)
          rwa [show a + (k + 1) = a + 1 + k by omega]
      case h_2 => cases h
    · intro h
      have h0 := h 0 (by omega)
      have hr := (ih (a := a + 1)).2 fun k hk => by
        have := h (k + 1) (by omega)
        rwa [show a + (k + 1) = a + 1 + k by omega] at this
      obtain ⟨v, hv⟩ := Option.isSome_iff_exists.1 h0
      obtain ⟨ws, hw⟩ := Option.isSome_iff_exists.1 hr
      simp only [Nat.add_zero] at hv
      simp [hv, hw]

end Sys2Proof.Machine
end

