-- ==== Sys2Proof/Laws/State.lean ====
section
/-!
SUPPORT. One lemma per field per named update of the state (Machine/Ops.lean), so that no proof unfolds a record update.
-/

namespace Sys2Proof.Machine

/-! ### `reply` -/

@[simp] theorem reply_cfg (r : OpResult) (s : State) : (reply r s).cfg = s.cfg := rfl
@[simp] theorem reply_rs (r : OpResult) (s : State) : (reply r s).rs = s.rs := rfl
@[simp] theorem reply_wpos (r : OpResult) (s : State) : (reply r s).wpos = s.wpos := rfl
@[simp] theorem reply_t0 (r : OpResult) (s : State) : (reply r s).t0 = s.t0 := rfl
@[simp] theorem reply_rxb (r : OpResult) (s : State) : (reply r s).rxb = s.rxb := rfl
@[simp] theorem reply_vr (r : OpResult) (s : State) : (reply r s).vr = s.vr := rfl
@[simp] theorem reply_mb (r : OpResult) (s : State) : (reply r s).mb = s.mb := rfl
@[simp] theorem reply_msize (r : OpResult) (s : State) : (reply r s).msize = s.msize := rfl
@[simp] theorem reply_tx (r : OpResult) (s : State) : (reply r s).tx = s.tx := rfl
@[simp] theorem reply_results (r : OpResult) (s : State) : (reply r s).results = s.results ++ [r] := rfl
@[simp] theorem reply_host (r : OpResult) (s : State) : (reply r s).host = s.host := rfl

/-! ### `toStart` -/

@[simp] theorem toStart_cfg (s : State) : (toStart s).cfg = s.cfg := rfl
@[simp] theorem toStart_rs (s : State) : (toStart s).rs = .start := rfl
@[simp] theorem toStart_wpos (s : State) : (toStart s).wpos = s.wpos := rfl
@[simp] theorem toStart_t0 (s : State) : (toStart s).t0 = s.t0 := rfl
@[simp] theorem toStart_rxb (s : State) : (toStart s).rxb = s.rxb := rfl
@[simp] theorem toStart_vr (s : State) : (toStart s).vr = s.vr := rfl
@[simp] theorem toStart_mb (s : State) : (toStart s).mb = s.mb := rfl
@[simp] theorem toStart_msize (s : State) : (toStart s).msize = s.msize := rfl
@[simp] theorem toStart_tx (s : State) : (toStart s).tx = s.tx := rfl
@[simp] theorem toStart_results (s : State) : (toStart s).results = s.results := rfl
@[simp] theorem toStart_host (s : State) : (toStart s).host = s.host := rfl

/-! ### `beginMessage` -/

@[simp] theorem beginMessage_cfg (now : Nat) (s : State) : (beginMessage now s).cfg = s.cfg := rfl
@[simp] theorem beginMessage_rs (now : Nat) (s : State) : (beginMessage now s).rs = .collect := rfl
@[simp] theorem beginMessage_wpos (now : Nat) (s : State) : (beginMessage now s).wpos = 0 := rfl
@[simp] theorem beginMessage_t0 (now : Nat) (s : State) : (beginMessage now s).t0 = some (clockReading s.cfg.clockW now) := rfl
@[simp] theorem beginMessage_rxb (now : Nat) (s : State) : (beginMessage now s).rxb = s.rxb := rfl
@[simp] theorem beginMessage_vr (now : Nat) (s : State) : (beginMessage now s).vr = s.vr := rfl
@[simp] theorem beginMessage_mb (now : Nat) (s : State) : (beginMessage now s).mb = s.mb := rfl
@[simp] theorem beginMessage_msize (now : Nat) (s : State) : (beginMessage now s).msize = s.msize := rfl
@[simp] theorem beginMessage_tx (now : Nat) (s : State) : (beginMessage now s).tx = s.tx := rfl
@[simp] theorem beginMessage_results (now : Nat) (s : State) : (beginMessage now s).results = s.results := rfl
@[simp] theorem beginMessage_host (now : Nat) (s : State) : (beginMessage now s).host = s.host := rfl

/-! ### `storeByte` -/

@[simp] theorem storeByte_cfg (b : Byte) (s : State) : (storeByte b s).cfg = s.cfg := rfl
@[simp] theorem storeByte_rs (b : Byte) (s : State) : (storeByte b s).rs = s.rs := rfl
@[simp] theorem storeByte_wpos (b : Byte) (s : State) : (storeByte b s).wpos = s.wpos + 1 := rfl
@[simp] theorem storeByte_t0 (b : Byte) (s : State) : (storeByte b s).t0 = s.t0 := rfl
@[simp] theorem storeByte_rxb (b : Byte) (s : State) : (storeByte b s).rxb = Memory.write s.rxb s.wpos b := rfl
@[simp] theorem storeByte_vr (b : Byte) (s : State) : (storeByte b s).vr = s.vr := rfl
@[simp] theorem storeByte_mb (b : Byte) (s : State) : (storeByte b s).mb = s.mb := rfl
@[simp] theorem storeByte_msize (b : Byte) (s : State) : (storeByte b s).msize = s.msize := rfl
@[simp] theorem storeByte_tx (b : Byte) (s : State) : (storeByte b s).tx = s.tx := rfl
@[simp] theorem storeByte_results (b : Byte) (s : State) : (storeByte b s).results = s.results := rfl
@[simp] theorem storeByte_host (b : Byte) (s : State) : (storeByte b s).host = s.host := rfl

/-! ### `complete` -/

@[simp] theorem complete_cfg (s : State) : (complete s).cfg = s.cfg := rfl
@[simp] theorem complete_rs (s : State) : (complete s).rs = .done := rfl
@[simp] theorem complete_wpos (s : State) : (complete s).wpos = s.wpos := rfl
@[simp] theorem complete_t0 (s : State) : (complete s).t0 = s.t0 := rfl
@[simp] theorem complete_rxb (s : State) : (complete s).rxb = s.rxb := rfl
@[simp] theorem complete_vr (s : State) : (complete s).vr = s.vr := rfl
@[simp] theorem complete_mb (s : State) : (complete s).mb = s.mb := rfl
@[simp] theorem complete_msize (s : State) : (complete s).msize = s.msize := rfl
@[simp] theorem complete_tx (s : State) : (complete s).tx = s.tx := rfl
@[simp] theorem complete_results (s : State) : (complete s).results = s.results := rfl
@[simp] theorem complete_host (s : State) : (complete s).host = s.host := rfl

/-! ### `clearReader` -/

@[simp] theorem clearReader_cfg (s : State) : (clearReader s).cfg = s.cfg := rfl
@[simp] theorem clearReader_rs (s : State) : (clearReader s).rs = .start := rfl
@[simp] theorem clearReader_wpos (s : State) : (clearReader s).wpos = 0 := rfl
@[simp] theorem clearReader_t0 (s : State) : (clearReader s).t0 = s.t0 := rfl
@[simp] theorem clearReader_rxb (s : State) : (clearReader s).rxb = s.rxb := rfl
@[simp] theorem clearReader_vr (s : State) : (clearReader s).vr = s.vr := rfl
@[simp] theorem clearReader_mb (s : State) : (clearReader s).mb = s.mb := rfl
@[simp] theorem clearReader_msize (s : State) : (clearReader s).msize = s.msize := rfl
@[simp] theorem clearReader_tx (s : State) : (clearReader s).tx = s.tx := rfl
@[simp] theorem clearReader_results (s : State) : (clearReader s).results = s.results := rfl
@[simp] theorem clearReader_host (s : State) : (clearReader s).host = s.host := rfl

/-! ### `setVR` -/

@[simp] theorem setVR_cfg (v : VoteResult) (s : State) : (setVR v s).cfg = s.cfg := rfl
@[simp] theorem setVR_rs (v : VoteResult) (s : State) : (setVR v s).rs = s.rs := rfl
@[simp] theorem setVR_wpos (v : VoteResult) (s : State) : (setVR v s).wpos = s.wpos := rfl
@[simp] theorem setVR_t0 (v : VoteResult) (s : State) : (setVR v s).t0 = s.t0 := rfl
@[simp] theorem setVR_rxb (v : VoteResult) (s : State) : (setVR v s).rxb = s.rxb := rfl
@[simp] theorem setVR_vr (v : VoteResult) (s : State) : (setVR v s).vr = some v := rfl
@[simp] theorem setVR_mb (v : VoteResult) (s : State) : (setVR v s).mb = s.mb := rfl
@[simp] theorem setVR_msize (v : VoteResult) (s : State) : (setVR v s).msize = s.msize := rfl
@[simp] theorem setVR_tx (v : VoteResult) (s : State) : (setVR v s).tx = s.tx := rfl
@[simp] theorem setVR_results (v : VoteResult) (s : State) : (setVR v s).results = s.results := rfl
@[simp] theorem setVR_host (v : VoteResult) (s : State) : (setVR v s).host = s.host := rfl

/-! ### `loadMessage` -/

@[simp] theorem loadMessage_cfg (size : MsgSize) (bytes : List Byte) (s : State) : (loadMessage size bytes s).cfg = s.cfg := rfl
@[simp] theorem loadMessage_rs (size : MsgSize) (bytes : List Byte) (s : State) : (loadMessage size bytes s).rs = s.rs := rfl
@[simp] theorem loadMessage_wpos (size : MsgSize) (bytes : List Byte) (s : State) : (loadMessage size bytes s).wpos = s.wpos := rfl
@[simp] theorem loadMessage_t0 (size : MsgSize) (bytes : List Byte) (s : State) : (loadMessage size bytes s).t0 = s.t0 := rfl
@[simp] theorem loadMessage_rxb (size : MsgSize) (bytes : List Byte) (s : State) : (loadMessage size bytes s).rxb = s.rxb := rfl
@[simp] theorem loadMessage_vr (size : MsgSize) (bytes : List Byte) (s : State) : (loadMessage size bytes s).vr = s.vr := rfl
@[simp] theorem loadMessage_mb (size : MsgSize) (bytes : List Byte) (s : State) : (loadMessage size bytes s).mb = Memory.writeList s.mb 0 bytes := rfl
@[simp] theorem loadMessage_msize (size : MsgSize) (bytes : List Byte) (s : State) : (loadMessage size bytes s).msize = some size := rfl
@[simp] theorem loadMessage_tx (size : MsgSize) (bytes : List Byte) (s : State) : (loadMessage size bytes s).tx = s.tx := rfl
@[simp] theorem loadMessage_results (size : MsgSize) (bytes : List Byte) (s : State) : (loadMessage size bytes s).results = s.results := rfl
@[simp] theorem loadMessage_host (size : MsgSize) (bytes : List Byte) (s : State) : (loadMessage size bytes s).host = s.host := rfl

/-! ### `transmit` -/

@[simp] theorem transmit_cfg (bytes : List Byte) (s : State) : (transmit bytes s).cfg = s.cfg := rfl
@[simp] theorem transmit_rs (bytes : List Byte) (s : State) : (transmit bytes s).rs = s.rs := rfl
@[simp] theorem transmit_wpos (bytes : List Byte) (s : State) : (transmit bytes s).wpos = s.wpos := rfl
@[simp] theorem transmit_t0 (bytes : List Byte) (s : State) : (transmit bytes s).t0 = s.t0 := rfl
@[simp] theorem transmit_rxb (bytes : List Byte) (s : State) : (transmit bytes s).rxb = s.rxb := rfl
@[simp] theorem transmit_vr (bytes : List Byte) (s : State) : (transmit bytes s).vr = s.vr := rfl
@[simp] theorem transmit_mb (bytes : List Byte) (s : State) : (transmit bytes s).mb = s.mb := rfl
@[simp] theorem transmit_msize (bytes : List Byte) (s : State) : (transmit bytes s).msize = s.msize := rfl
@[simp] theorem transmit_tx (bytes : List Byte) (s : State) : (transmit bytes s).tx = s.tx ++ bytes := rfl
@[simp] theorem transmit_results (bytes : List Byte) (s : State) : (transmit bytes s).results = s.results := rfl
@[simp] theorem transmit_host (bytes : List Byte) (s : State) : (transmit bytes s).host = s.host := rfl

/-! ### `presentInput` -/

@[simp] theorem presentInput_cfg (h : HostInput) (s : State) : (presentInput h s).cfg = s.cfg := rfl
@[simp] theorem presentInput_rs (h : HostInput) (s : State) : (presentInput h s).rs = s.rs := rfl
@[simp] theorem presentInput_wpos (h : HostInput) (s : State) : (presentInput h s).wpos = s.wpos := rfl
@[simp] theorem presentInput_t0 (h : HostInput) (s : State) : (presentInput h s).t0 = s.t0 := rfl
@[simp] theorem presentInput_rxb (h : HostInput) (s : State) : (presentInput h s).rxb = s.rxb := rfl
@[simp] theorem presentInput_vr (h : HostInput) (s : State) : (presentInput h s).vr = s.vr := rfl
@[simp] theorem presentInput_mb (h : HostInput) (s : State) : (presentInput h s).mb = s.mb := rfl
@[simp] theorem presentInput_msize (h : HostInput) (s : State) : (presentInput h s).msize = s.msize := rfl
@[simp] theorem presentInput_tx (h : HostInput) (s : State) : (presentInput h s).tx = s.tx := rfl
@[simp] theorem presentInput_results (h : HostInput) (s : State) : (presentInput h s).results = s.results := rfl
@[simp] theorem presentInput_host (h : HostInput) (s : State) : (presentInput h s).host = h :: s.host := rfl

/-! ### `setHost` -/

@[simp] theorem setHost_cfg (rest : List HostInput) (s : State) : (setHost rest s).cfg = s.cfg := rfl
@[simp] theorem setHost_rs (rest : List HostInput) (s : State) : (setHost rest s).rs = s.rs := rfl
@[simp] theorem setHost_wpos (rest : List HostInput) (s : State) : (setHost rest s).wpos = s.wpos := rfl
@[simp] theorem setHost_t0 (rest : List HostInput) (s : State) : (setHost rest s).t0 = s.t0 := rfl
@[simp] theorem setHost_rxb (rest : List HostInput) (s : State) : (setHost rest s).rxb = s.rxb := rfl
@[simp] theorem setHost_vr (rest : List HostInput) (s : State) : (setHost rest s).vr = s.vr := rfl
@[simp] theorem setHost_mb (rest : List HostInput) (s : State) : (setHost rest s).mb = s.mb := rfl
@[simp] theorem setHost_msize (rest : List HostInput) (s : State) : (setHost rest s).msize = s.msize := rfl
@[simp] theorem setHost_tx (rest : List HostInput) (s : State) : (setHost rest s).tx = s.tx := rfl
@[simp] theorem setHost_results (rest : List HostInput) (s : State) : (setHost rest s).results = s.results := rfl
@[simp] theorem setHost_host (rest : List HostInput) (s : State) : (setHost rest s).host = rest := rfl

/-! ### The power-on state -/

@[simp] theorem powerOn_cfg (c : Config) : (State.powerOn c).cfg = c := rfl
@[simp] theorem powerOn_rs (c : Config) : (State.powerOn c).rs = .start := rfl
@[simp] theorem powerOn_wpos (c : Config) : (State.powerOn c).wpos = 0 := rfl
@[simp] theorem powerOn_t0 (c : Config) : (State.powerOn c).t0 = none := rfl
@[simp] theorem powerOn_rxb (c : Config) : (State.powerOn c).rxb = [] := rfl
@[simp] theorem powerOn_vr (c : Config) : (State.powerOn c).vr = none := rfl
@[simp] theorem powerOn_mb (c : Config) : (State.powerOn c).mb = [] := rfl
@[simp] theorem powerOn_msize (c : Config) : (State.powerOn c).msize = none := rfl
@[simp] theorem powerOn_tx (c : Config) : (State.powerOn c).tx = [] := rfl
@[simp] theorem powerOn_results (c : Config) : (State.powerOn c).results = [] := rfl
@[simp] theorem powerOn_host (c : Config) : (State.powerOn c).host = [] := rfl

/-- Taking the operation just presented leaves the state as it was. -/
theorem setHost_presentInput (h : HostInput) (s : State) : setHost s.host (presentInput h s) = s := rfl

end Sys2Proof.Machine
end

