-- ==== Sys2Proof/Laws/Ops.lean ====
section
/-!
SUPPORT. What the shared operations over outcomes can do, said once: sequencing, the configuration check, runs, and the clock
arithmetic of the receive timeout.
-/

namespace Sys2Proof.Machine

/-! ### Sequencing and the configuration check -/

@[simp] theorem andThen_next (s : State) (k : State → Out) : andThen (.next s) k = k s := rfl
@[simp] theorem andThen_fault (f : Fault) (k : State → Out) : andThen (.fault f) k = .fault f := rfl
@[simp] theorem andThen_refused (r : Refusal) (k : State → Out) : andThen (.refused r) k = .refused r := rfl

/-- A sequence answers a next state exactly if both its parts do. -/
theorem andThen_eq_next {o : Out} {k : State → Out} {t : State} :
    andThen o k = .next t ↔ ∃ s, o = .next s ∧ k s = .next t := by
  cases o <;> simp

/-- Sequencing is associative. -/
theorem andThen_assoc (o : Out) (k l : State → Out) :
    andThen (andThen o k) l = andThen o fun s => andThen (k s) l := by
  cases o <;> rfl

/-- Doing nothing afterwards changes nothing. -/
@[simp] theorem andThen_self (o : Out) : andThen o .next = o := by
  cases o <;> rfl

@[simp] theorem readElement_some {α : Type} (e : Element) (v : α) (k : α → Out) : readElement e (some v) k = k v := rfl
@[simp] theorem readElement_none {α : Type} (e : Element) (k : α → Out) :
    readElement e none k = .fault (.unwritten e) := rfl

/-- A read answers a next state exactly if the element holds a value and what follows does. -/
theorem readElement_eq_next {α : Type} {e : Element} {value : Option α} {k : α → Out} {t : State} :
    readElement e value k = .next t ↔ ∃ v, value = some v ∧ k v = .next t := by
  cases value <;> simp

/-- A read is never refused itself. -/
theorem readElement_eq_refused {α : Type} {e : Element} {value : Option α} {k : α → Out} {r : Refusal} :
    readElement e value k = .refused r ↔ ∃ v, value = some v ∧ k v = .refused r := by
  cases value <;> simp

theorem configLegal_iff (c : Config) :
    configLegal c = true ↔ 3 ≤ c.rxCapacity ∧ 1 ≤ c.clockW ∧ c.rxTimeout < 2 ^ c.clockW := by
  simp [configLegal, and_assoc]

theorem guardConfig_of_legal {s : State} (h : configLegal s.cfg = true) (o : Out) : guardConfig s o = o := by
  simp [guardConfig, h]

theorem guardConfig_of_illegal {s : State} (h : configLegal s.cfg = false) (o : Out) :
    guardConfig s o = .refused .badConfig := by
  simp [guardConfig, h]

/-- A guarded operation answers a next state exactly if the configuration is legal and the operation does. -/
theorem guardConfig_eq_next {s t : State} {o : Out} :
    guardConfig s o = .next t ↔ configLegal s.cfg = true ∧ o = .next t := by
  unfold guardConfig
  split <;> simp_all

@[simp] theorem runOps_nil (s : State) : runOps [] s = .next s := rfl
@[simp] theorem runOps_cons (i : Instr) (ops : List Instr) (s : State) :
    runOps (i :: ops) s = andThen (exec i s) (runOps ops) := rfl

/-- A relation between a state and the next that every operation keeps, and that composes, holds along every run. -/
theorem runOps_induct {R : State → State → Prop} (refl : ∀ s, R s s) (trans : ∀ s t u, R s t → R t u → R s u)
    (one : ∀ i s t, exec i s = .next t → R s t) {ops : List Instr} {s t : State} (h : runOps ops s = .next t) : R s t := by
  induction ops generalizing s with
  | nil =>
    cases h
    exact refl _
  | cons i ops ih =>
    obtain ⟨u, hu, ht⟩ := andThen_eq_next.1 h
    exact trans _ _ _ (one i s u hu) (ih ht)

/-! ### Steps and runs of what the host presents -/

@[simp] theorem applyAll_nil {α : Type} (ex : α → State → Out) (s : State) : applyAll ex [] s = .next s := rfl
@[simp] theorem applyAll_cons {α : Type} (ex : α → State → Out) (x : α) (xs : List α) (s : State) :
    applyAll ex (x :: xs) s = andThen (ex x s) (applyAll ex xs) := rfl

/-- Everything a step can do when it answers a next state: nothing, or a sequence of operations. -/
theorem step_eq_next {s t : State} (h : step s = .next t) : t = s ∨ ∃ ops rest, runOps ops (setHost rest s) = .next t := by
  unfold step stepWith at h
  split at h
  case h_1 => exact .inl (by cases h; rfl)
  case h_2 input rest _ =>
    split at h
    case h_1 i _ => exact .inr ⟨[i], rest, by rw [runOps_cons, h]; rfl⟩
    case h_2 => cases h
    case h_3 pushes _ => exact .inr ⟨pushes, rest, h⟩
    case h_4 => cases h

/-- What is presented is applied to the state it was presented to. -/
theorem applyInput_eq (h : HostInput) (s : State) :
    applyInput h s =
      match decode s.cfg.clockW h with
      | .ok i => exec i s
      | .error .badCommand => .refused .badCommand
      | .error (.otherBytes pushes) => runOps pushes s
      | .error .badMessage => .refused .badMessage := rfl

@[simp] theorem runInputs_nil (s : State) : runInputs [] s = .next s := rfl
@[simp] theorem runInputs_cons (h : HostInput) (inputs : List HostInput) (s : State) :
    runInputs (h :: inputs) s = andThen (applyInput h s) (runInputs inputs) := rfl

@[simp] theorem observe_nil (s : State) : observe [] s = observeAt .completed s := rfl

/-- The observation after an operation that completes. -/
theorem observe_cons_of_next {h : HostInput} {s t : State} (ha : applyInput h s = .next t) (inputs : List HostInput) :
    observe (h :: inputs) s = observe inputs t := by
  simp [observe, ha]

/-- The observation of a run that faults. -/
theorem observe_cons_of_fault {h : HostInput} {s : State} {f : Fault} (ha : applyInput h s = .fault f)
    (inputs : List HostInput) : observe (h :: inputs) s = observeAt (.faulted f) s := by
  simp [observe, ha]

/-- The observation of a run that is refused. -/
theorem observe_cons_of_refused {h : HostInput} {s : State} {r : Refusal} (ha : applyInput h s = .refused r)
    (inputs : List HostInput) : observe (h :: inputs) s = observeAt (.refused r) s := by
  simp [observe, ha]

/-! ### The clock -/

/-- `elapsed` is the mathematical `(now - T0) mod 2^CLOCK_W` (40_request_reader.md R101). -/
theorem elapsed_cast (w now t0 : Nat) : ((elapsed w now t0 : Nat) : Int) = ((now : Int) - t0) % 2 ^ w :=
  Int.toNat_of_nonneg (Int.emod_nonneg _ (by positivity))

/-- The elapsed time is a `CLOCK_W`-bit value. -/
theorem elapsed_lt (w now t0 : Nat) : elapsed w now t0 < 2 ^ w := by
  have h := Int.emod_lt_of_pos ((now : Int) - t0) (show (0 : Int) < 2 ^ w by positivity)
  rw [← elapsed_cast] at h
  exact_mod_cast h

/-- The elapsed time depends on `now` and on `T0` only modulo `2^CLOCK_W`. -/
theorem elapsed_congr {w now now' t0 t0' : Nat} (hn : now % 2 ^ w = now' % 2 ^ w) (ht : t0 % 2 ^ w = t0' % 2 ^ w) :
    elapsed w now t0 = elapsed w now' t0' := by
  have hn' : (now : Int) % 2 ^ w = (now' : Int) % 2 ^ w := by exact_mod_cast hn
  have ht' : (t0 : Int) % 2 ^ w = (t0' : Int) % 2 ^ w := by exact_mod_cast ht
  unfold elapsed
  rw [Int.sub_emod, hn', ht', ← Int.sub_emod]

/-- `d` milliseconds after `T0` the elapsed time is `d`, across the wrap of the clock (70_reset_and_hazards.md R256). -/
theorem elapsed_add {w t0 d : Nat} (h : d < 2 ^ w) : elapsed w (t0 + d) t0 = d := by
  have : ((elapsed w (t0 + d) t0 : Nat) : Int) = d := by
    rw [elapsed_cast, show (((t0 + d : Nat) : Int) - t0) = (d : Int) by push_cast; ring]
    exact Int.emod_eq_of_lt (by positivity) (by exact_mod_cast h)
  exact_mod_cast this

end Sys2Proof.Machine
end

