-- ==== Sys2Proof/Laws/Consensus.lean ====
section
/-!
SUPPORT. The Consensus Engine's facts (41_consensus.md): the tolerance relation is symmetric, agreement in terms of it, and
what a vote result can be.
-/

namespace Sys2Proof.Machine

theorem withinTol_iff (tol : Int) (a b : Temp) : withinTol tol a b = true ↔ |a.toInt - b.toInt| ≤ tol := by
  simp [withinTol]

/-- The tolerance relation is symmetric (R146). -/
theorem withinTol_comm (tol : Int) (a b : Temp) : withinTol tol a b = withinTol tol b a := by
  rw [Bool.eq_iff_iff, withinTol_iff, withinTol_iff, abs_sub_comm]

/-- Exchanging a sensor's two partners leaves its flag as it was (R143). -/
theorem agreeFlag_comm (tol : Int) (r x y : Reading) : agreeFlag tol r x y = agreeFlag tol r y x := by
  unfold agreeFlag
  rw [Bool.or_comm]

/-- A flag is set exactly if the sensor is valid and within the tolerance of a valid partner (R143). -/
theorem agreeFlag_iff (tol : Int) (r x y : Reading) :
    agreeFlag tol r x y = true ↔ r.valid = true ∧
      ((x.valid = true ∧ |r.temp.toInt - x.temp.toInt| ≤ tol) ∨ (y.valid = true ∧ |r.temp.toInt - y.temp.toInt| ≤ tol)) := by
  simp [agreeFlag, withinTol_iff]

/-- An agreeing sensor is valid (R147). -/
theorem valid_of_agreeFlag {tol : Int} {r x y : Reading} (h : agreeFlag tol r x y = true) : r.valid = true :=
  ((agreeFlag_iff tol r x y).1 h).1

@[simp] theorem voteResult_temp0 (tol : Int) (r0 r1 r2 : Reading) : (voteResult tol r0 r1 r2).temp0 = shownTemp r0 := by
  unfold voteResult
  dsimp only
  split
  · rfl
  · split <;> rfl

@[simp] theorem voteResult_temp1 (tol : Int) (r0 r1 r2 : Reading) : (voteResult tol r0 r1 r2).temp1 = shownTemp r1 := by
  unfold voteResult
  dsimp only
  split
  · rfl
  · split <;> rfl

@[simp] theorem voteResult_temp2 (tol : Int) (r0 r1 r2 : Reading) : (voteResult tol r0 r1 r2).temp2 = shownTemp r2 := by
  unfold voteResult
  dsimp only
  split
  · rfl
  · split <;> rfl

/-- With fewer than two valid readings no flag can be set (R142, R143). -/
theorem agreeFlag_of_few {tol : Int} {r0 r1 r2 : Reading} (h : countFlags r0.valid r1.valid r2.valid < 2) :
    agreeFlag tol r0 r1 r2 = false ∧ agreeFlag tol r1 r0 r2 = false ∧ agreeFlag tol r2 r0 r1 = false := by
  revert h
  unfold countFlags agreeFlag
  cases r0.valid <;> cases r1.valid <;> cases r2.valid <;> simp

/-- On every path the flags of the result are the agreement flags of R143. -/
@[simp] theorem voteResult_agree0 (tol : Int) (r0 r1 r2 : Reading) :
    (voteResult tol r0 r1 r2).agree0 = agreeFlag tol r0 r1 r2 := by
  unfold voteResult
  dsimp only
  split
  case isTrue h => exact (agreeFlag_of_few h).1.symm
  case isFalse => split <;> rfl

@[simp] theorem voteResult_agree1 (tol : Int) (r0 r1 r2 : Reading) :
    (voteResult tol r0 r1 r2).agree1 = agreeFlag tol r1 r0 r2 := by
  unfold voteResult
  dsimp only
  split
  case isTrue h => exact (agreeFlag_of_few h).2.1.symm
  case isFalse => split <;> rfl

@[simp] theorem voteResult_agree2 (tol : Int) (r0 r1 r2 : Reading) :
    (voteResult tol r0 r1 r2).agree2 = agreeFlag tol r2 r0 r1 := by
  unfold voteResult
  dsimp only
  split
  case isTrue h => exact (agreeFlag_of_few h).2.2.symm
  case isFalse => split <;> rfl

/-- The status and the average by the two counts (R142, R144, R145). -/
theorem voteResult_status_avg (tol : Int) (r0 r1 r2 : Reading) :
    let v := voteResult tol r0 r1 r2
    let n := countFlags v.agree0 v.agree1 v.agree2
    (countFlags r0.valid r1.valid r2.valid < 2 ∧ n = 0 ∧ v.status = 1#8 ∧ v.avg = 0#16) ∨
    (2 ≤ countFlags r0.valid r1.valid r2.valid ∧ 2 ≤ n ∧ v.status = 0#8 ∧
      v.avg = average (summand v.agree0 r0 + summand v.agree1 r1 + summand v.agree2 r2) n) ∨
    (2 ≤ countFlags r0.valid r1.valid r2.valid ∧ n < 2 ∧ v.status = 2#8 ∧ v.avg = 0#16) := by
  intro v n
  have e0 : v.agree0 = agreeFlag tol r0 r1 r2 := voteResult_agree0 ..
  have e1 : v.agree1 = agreeFlag tol r1 r0 r2 := voteResult_agree1 ..
  have e2 : v.agree2 = agreeFlag tol r2 r0 r1 := voteResult_agree2 ..
  by_cases h1 : countFlags r0.valid r1.valid r2.valid < 2
  · left
    obtain ⟨f0, f1, f2⟩ := agreeFlag_of_few (tol := tol) h1
    refine ⟨h1, ?_, ?_, ?_⟩
    · show countFlags v.agree0 v.agree1 v.agree2 = 0
      rw [e0, e1, e2, f0, f1, f2]
      rfl
    · show (voteResult tol r0 r1 r2).status = 1#8
      unfold voteResult
      dsimp only
      rw [if_pos h1]
      rfl
    · show (voteResult tol r0 r1 r2).avg = 0#16
      unfold voteResult
      dsimp only
      rw [if_pos h1]
  · right
    have hn : n = countFlags (agreeFlag tol r0 r1 r2) (agreeFlag tol r1 r0 r2) (agreeFlag tol r2 r0 r1) := by
      rw [← e0, ← e1, ← e2]
    by_cases h2 : 2 ≤ n
    · left
      refine ⟨by omega, h2, ?_, ?_⟩
      · show (voteResult tol r0 r1 r2).status = 0#8
        unfold voteResult
        dsimp only
        rw [if_neg h1, if_pos (hn ▸ h2)]
        rfl
      · rw [e0, e1, e2, hn]
        show (voteResult tol r0 r1 r2).avg = _
        unfold voteResult
        dsimp only
        rw [if_neg h1, if_pos (hn ▸ h2)]
    · right
      refine ⟨by omega, by omega, ?_, ?_⟩
      · show (voteResult tol r0 r1 r2).status = 2#8
        unfold voteResult
        dsimp only
        rw [if_neg h1, if_neg (hn ▸ h2)]
        rfl
      · show (voteResult tol r0 r1 r2).avg = 0#16
        unfold voteResult
        dsimp only
        rw [if_neg h1, if_neg (hn ▸ h2)]

/-- Flags come in pairs: the number of agreeing sensors is never one (R146). -/
theorem countFlags_agree_ne_one (tol : Int) (r0 r1 r2 : Reading) :
    countFlags (agreeFlag tol r0 r1 r2) (agreeFlag tol r1 r0 r2) (agreeFlag tol r2 r0 r1) ≠ 1 := by
  unfold agreeFlag countFlags
  rw [withinTol_comm tol r1.temp r0.temp, withinTol_comm tol r2.temp r0.temp, withinTol_comm tol r2.temp r1.temp]
  cases r0.valid <;> cases r1.valid <;> cases r2.valid <;> cases withinTol tol r0.temp r1.temp <;>
    cases withinTol tol r0.temp r2.temp <;> cases withinTol tol r1.temp r2.temp <;> simp

/-- A mean truncated toward zero lies between bounds of its terms that hold for zero too, or between bounds of one sign. -/
theorem tdiv_between {sum lo hi : Int} {n : Nat} (hn : 0 < n) (hlo : lo * n ≤ sum) (hhi : sum ≤ hi * n) :
    lo ≤ Int.tdiv sum n ∧ Int.tdiv sum n ≤ hi := by
  have hn' : (0 : Int) < n := by exact_mod_cast hn
  rcases le_or_gt 0 sum with hs | hs
  · rw [Int.tdiv_eq_ediv_of_nonneg hs]
    exact ⟨(Int.le_ediv_iff_mul_le hn').2 hlo, by
      have := Int.ediv_le_ediv hn' hhi
      rwa [Int.mul_ediv_cancel _ (by omega)] at this⟩
  · have e : Int.tdiv sum n = -((-sum) / n) := by
      rw [← Int.tdiv_eq_ediv_of_nonneg (by omega), Int.neg_tdiv, neg_neg]
    rw [e]
    constructor
    · have : (-sum) / (n : Int) ≤ -lo := by
        have h := Int.ediv_le_ediv hn' (show -sum ≤ (-lo) * n by linarith)
        rwa [Int.mul_ediv_cancel _ (by omega)] at h
      omega
    · have : -hi ≤ (-sum) / (n : Int) := (Int.le_ediv_iff_mul_le hn').2 (by linarith)
      omega

/-- An int16 pattern holds every value in the int16 range. -/
theorem toInt_ofInt_of_range {v : Int} (h1 : -32768 ≤ v) (h2 : v ≤ 32767) : (BitVec.ofInt 16 v).toInt = v := by
  rw [BitVec.toInt_ofInt]
  exact Int.bmod_eq_of_le (by norm_num; omega) (by norm_num; omega)

/-- An int16 value is in the int16 range (00_scope.md R10). -/
theorem toInt_range (t : Temp) : -32768 ≤ t.toInt ∧ t.toInt ≤ 32767 := by
  have h1 := BitVec.le_toInt t
  have h2 := BitVec.toInt_lt (x := t)
  norm_num at h1 h2
  omega

/-- Everything `VOTE` can do when it answers a next state. -/
theorem execVote_eq_next {r0 r1 r2 : Reading} {s t : State} (h : execVote r0 r1 r2 s = .next t) :
    configLegal s.cfg = true ∧
      t = reply (.voted (voteResult s.cfg.tol r0 r1 r2)) (setVR (voteResult s.cfg.tol r0 r1 r2) s) := by
  obtain ⟨hc, h⟩ := guardConfig_eq_next.1 h
  exact ⟨hc, by cases h; rfl⟩

end Sys2Proof.Machine
end

