-- ==== Sys2Proof/Laws/Encoder.lean ====
section
/-!
SUPPORT. The Response Encoder's facts (42_response_encoder.md): the checksum law, the lengths of the three messages, what an
encode leaves in the buffer, and everything the encoders and `SEND` can do.
-/

namespace Sys2Proof.Machine

@[simp] theorem xorsum_nil : xorsum [] = 0#8 := rfl
@[simp] theorem xorsum_cons (b : Byte) (bs : List Byte) : xorsum (b :: bs) = b ^^^ xorsum bs := rfl

theorem xorsum_append (xs ys : List Byte) : xorsum (xs ++ ys) = xorsum xs ^^^ xorsum ys := by
  induction xs with
  | nil => simp
  | cons x xs ih => simp [ih, BitVec.xor_assoc]

/-- A message closed by its checksum XORs to 0 (30_encoding.md R72). -/
theorem xorsum_sealMessage (body : List Byte) : xorsum (sealMessage body) = 0#8 := by
  simp [sealMessage, xorsum_append]

/-- The XOR from the left is the XOR from the right. -/
theorem foldl_xor (bs : List Byte) (b : Byte) : bs.foldl (· ^^^ ·) b = b ^^^ xorsum bs := by
  induction bs generalizing b with
  | nil => simp
  | cons c bs ih => simp [ih, BitVec.xor_assoc]

@[simp] theorem length_temperatureMessage (st : Byte) (a0 a1 a2 : Bool) (p0 p1 p2 avg : Temp) :
    (temperatureMessage st a0 a1 a2 p0 p1 p2 avg).length = 12 := rfl
@[simp] theorem length_systemStatusMessage (ss : Byte) (g0 g1 g2 : Bool) :
    (systemStatusMessage ss g0 g1 g2).length = 4 := rfl
@[simp] theorem length_errorMessage (ec : Byte) : (errorMessage ec).length = 3 := rfl

theorem emittable_temperatureMessage (st : Byte) (a0 a1 a2 : Bool) (p0 p1 p2 avg : Temp) :
    emittable (temperatureMessage st a0 a1 a2 p0 p1 p2 avg) = true := by
  have h := xorsum_sealMessage (temperatureBody (clampVoteStatus st) p0 p1 p2 a0 a1 a2 avg)
  simp only [temperatureMessage, sealMessage, temperatureBody, List.cons_append, List.nil_append] at h ⊢
  simp only [emittable, h]
  rfl

theorem emittable_systemStatusMessage (ss : Byte) (g0 g1 g2 : Bool) :
    emittable (systemStatusMessage ss g0 g1 g2) = true := by
  have h := xorsum_sealMessage (systemStatusBody (clampSystemStatus ss) g0 g1 g2)
  simp only [systemStatusMessage, sealMessage, systemStatusBody, List.cons_append, List.nil_append] at h ⊢
  simp only [emittable, h]
  rfl

theorem emittable_errorMessage (ec : Byte) : emittable (errorMessage ec) = true := by
  have h := xorsum_sealMessage (errorBody (clampErrorCode ec))
  simp only [errorMessage, sealMessage, errorBody, List.cons_append, List.nil_append] at h ⊢
  simp only [emittable, h]
  rfl

/-- After an encode the buffer holds the message (20_memory.md R56). -/
theorem bufferedMessage_loadMessage {size : MsgSize} {bytes : List Byte} (h : bytes.length = sizeBytes size) (s : State) :
    bufferedMessage (loadMessage size bytes s) = some bytes := by
  simp only [bufferedMessage, loadMessage_msize, loadMessage_mb, ← h]
  exact Memory.readList_writeList ..

/-- Sending does not touch the buffer (20_memory.md R55). -/
@[simp] theorem bufferedMessage_transmit (bytes : List Byte) (s : State) :
    bufferedMessage (transmit bytes s) = bufferedMessage s := rfl

/-- The bytes of `MB` outside the message are retained (20_memory.md R58, log 12). -/
theorem read_loadMessage_other {size : MsgSize} {bytes : List Byte} {s : State} {a : Nat} (h : bytes.length ≤ a) :
    Memory.read (loadMessage size bytes s).mb a = Memory.read s.mb a :=
  Memory.read_writeList_other (.inr (by omega))

/-- Each byte of the message just encoded is at its offset. -/
theorem read_loadMessage {size : MsgSize} {bytes : List Byte} {s : State} {a : Nat} (h : a < bytes.length) :
    Memory.read (loadMessage size bytes s).mb a = bytes[a]? := by
  have := Memory.read_of_readList (Memory.readList_writeList s.mb 0 bytes) h
  simpa using this

/-- `SEND` with a message in the buffer (R174). -/
theorem execSend_of_buffered {s : State} {bytes : List Byte} (hc : configLegal s.cfg = true)
    (h : bufferedMessage s = some bytes) : execSend s = .next (transmit bytes s) := by
  unfold execSend
  rw [guardConfig_of_legal hc]
  unfold bufferedMessage at h
  split at h
  case h_1 => cases h
  case h_2 size hs => simp only [hs, h, readElement_some]

/-- `SEND` before any encode (R174). -/
theorem execSend_of_unwritten {s : State} (hc : configLegal s.cfg = true) (h : s.msize = none) :
    execSend s = .fault .sendUnwritten := by
  unfold execSend
  rw [guardConfig_of_legal hc]
  simp [h]

/-- Everything `SEND` can do when it answers a next state. -/
theorem execSend_eq_next {s t : State} (h : execSend s = .next t) :
    configLegal s.cfg = true ∧ ∃ bytes, bufferedMessage s = some bytes ∧ t = transmit bytes s := by
  obtain ⟨hc, h⟩ := guardConfig_eq_next.1 h
  refine ⟨hc, ?_⟩
  unfold bufferedMessage
  split at h
  case h_1 => cases h
  case h_2 size hs =>
    obtain ⟨bytes, hb, ht⟩ := readElement_eq_next.1 h
    exact ⟨bytes, by simpa [hs] using hb, by cases ht; rfl⟩

/-- An encode followed by `SEND`. -/
theorem encode_then_send {s : State} {size : MsgSize} {bytes : List Byte} (hc : configLegal s.cfg = true)
    (h : bytes.length = sizeBytes size) :
    andThen (guardConfig s (.next (loadMessage size bytes s))) execSend = .next (transmit bytes (loadMessage size bytes s)) := by
  rw [guardConfig_of_legal hc, andThen_next]
  exact execSend_of_buffered hc (bufferedMessage_loadMessage h s)

theorem execEncTemp_eq {s : State} (hc : configLegal s.cfg = true) (st : Byte) (a0 a1 a2 : Bool) (p0 p1 p2 avg : Temp) :
    execEncTemp st a0 a1 a2 p0 p1 p2 avg s =
      .next (loadMessage .twelve (temperatureMessage st a0 a1 a2 p0 p1 p2 avg) s) := guardConfig_of_legal hc _
theorem execEncSys_eq {s : State} (hc : configLegal s.cfg = true) (ss : Byte) (g0 g1 g2 : Bool) :
    execEncSys ss g0 g1 g2 s = .next (loadMessage .four (systemStatusMessage ss g0 g1 g2) s) := guardConfig_of_legal hc _
theorem execEncErr_eq {s : State} (hc : configLegal s.cfg = true) (ec : Byte) :
    execEncErr ec s = .next (loadMessage .three (errorMessage ec) s) := guardConfig_of_legal hc _

theorem execRspTemperature_eq {s : State} (hc : configLegal s.cfg = true) (st : Byte) (p0 p1 p2 : Temp) (a0 a1 a2 : Bool)
    (avg : Temp) (k : Byte) :
    execRspTemperature st p0 p1 p2 a0 a1 a2 avg k s =
      .next (transmit (temperatureMessage st a0 a1 a2 p0 p1 p2 avg)
        (loadMessage .twelve (temperatureMessage st a0 a1 a2 p0 p1 p2 avg) s)) := encode_then_send hc rfl
theorem execRspSystemStatus_eq {s : State} (hc : configLegal s.cfg = true) (ss : Byte) (g0 g1 g2 : Bool) (k : Byte) :
    execRspSystemStatus ss g0 g1 g2 k s =
      .next (transmit (systemStatusMessage ss g0 g1 g2) (loadMessage .four (systemStatusMessage ss g0 g1 g2) s)) :=
  encode_then_send hc rfl
theorem execRspError_eq {s : State} (hc : configLegal s.cfg = true) (ec k : Byte) :
    execRspError ec k s = .next (transmit (errorMessage ec) (loadMessage .three (errorMessage ec) s)) :=
  encode_then_send hc rfl

/-- A clamped ordinal is the smaller of the operand and the sentinel (30_encoding.md R80). -/
theorem toNat_clampTo (u v : Byte) : (clampTo u v).toNat = min v.toNat u.toNat := by
  unfold clampTo
  split
  case isTrue h =>
    have : v.toNat < u.toNat := h
    omega
  case isFalse h =>
    have : ¬ v.toNat < u.toNat := h
    omega

/-- The packed flag byte as a number (30_encoding.md R79). -/
theorem packFlags_eq (f0 f1 f2 : Bool) : packFlags f0 f1 f2 = BitVec.ofNat 8 (f0.toNat + 2 * f1.toNat + 4 * f2.toNat) := by
  cases f0 <;> cases f1 <;> cases f2 <;> decide

theorem lowByte_eq (t : Temp) : lowByte t = t.setWidth 8 := by
  unfold lowByte
  ext i
  simp

theorem highByte_eq (t : Temp) : highByte t = (t >>> 8).setWidth 8 := by
  unfold highByte
  ext i
  simp

/-- An int16 reassembled from its two bytes (20_memory.md R52). -/
theorem ofLe16_le16 (t : Temp) : ofLe16 (lowByte t) (highByte t) = t := by
  unfold ofLe16 lowByte highByte
  ext i hi
  simp only [BitVec.getElem_append, BitVec.getElem_extractLsb']
  split
  · simp only [Nat.zero_add, BitVec.getLsbD_eq_getElem hi]
  · rename_i h
    rw [show 8 + (i - 8) = i by omega, BitVec.getLsbD_eq_getElem hi]

end Sys2Proof.Machine
end

