-- ==== Sys2Proof/Laws/Decode.lean ====
section
/-!
SUPPORT. Fields of packed words, and bytes of wire messages, read back (30_encoding.md R84, R85, R74 to R76).
-/

namespace Sys2Proof

open Sys2Proof.Machine

/-- The first field of a packed word. -/
theorem fieldAt_zero_packFields (n v : Nat) (rest : List (Nat × Nat)) :
    fieldAt 0 n (packFields ((n, v) :: rest)) = v % 2 ^ n := by
  simp [fieldAt, packFields]

/-- A field above the first one of a packed word is a field of the rest. -/
theorem fieldAt_packFields {n lo : Nat} (h : n ≤ lo) (v width : Nat) (rest : List (Nat × Nat)) :
    fieldAt lo width (packFields ((n, v) :: rest)) = fieldAt (lo - n) width (packFields rest) := by
  have hsplit : (2 : Nat) ^ lo = 2 ^ n * 2 ^ (lo - n) := by rw [← Nat.pow_add]; congr 1; omega
  have hpack : packFields ((n, v) :: rest) = v % 2 ^ n + 2 ^ n * packFields rest := rfl
  unfold fieldAt
  rw [hpack, hsplit, ← Nat.div_div_eq_div_mul, Nat.add_mul_div_left _ _ (by positivity),
    Nat.div_eq_of_lt (Nat.mod_lt _ (by positivity)), Nat.zero_add]

/-- A field is below two to its width. -/
theorem fieldAt_lt (lo width w : Nat) : fieldAt lo width w < 2 ^ width := Nat.mod_lt _ (by positivity)

/-- A word is its low bits and the rest. -/
theorem fieldAt_add_mul (lo w : Nat) : fieldAt 0 lo w + 2 ^ lo * (w / 2 ^ lo) = w := by
  simp [fieldAt, Nat.mod_add_div]

/-- The low byte of a reassembled int16. -/
theorem lowByte_ofLe16 (lo hi : Byte) : lowByte (ofLe16 lo hi) = lo := by
  unfold ofLe16 lowByte
  ext i hi
  simp only [BitVec.getElem_extractLsb', BitVec.getLsbD_append]
  simp [hi]

/-- The high byte of a reassembled int16. -/
theorem highByte_ofLe16 (lo hi : Byte) : highByte (ofLe16 lo hi) = hi := by
  unfold ofLe16 highByte
  ext i hi
  simp only [BitVec.getElem_extractLsb', BitVec.getLsbD_append]
  simp [hi]

/-- A packed flag byte has its reserved bits zero (30_encoding.md R79). -/
theorem flagsReserved_packFlags (f0 f1 f2 : Bool) : flagsReserved (packFlags f0 f1 f2) = true := by
  cases f0 <;> cases f1 <;> cases f2 <;> decide

theorem packFlags_bit0 (f0 f1 f2 : Bool) : (packFlags f0 f1 f2)[0] = f0 := by
  cases f0 <;> cases f1 <;> cases f2 <;> decide
theorem packFlags_bit1 (f0 f1 f2 : Bool) : (packFlags f0 f1 f2)[1] = f1 := by
  cases f0 <;> cases f1 <;> cases f2 <;> decide
theorem packFlags_bit2 (f0 f1 f2 : Bool) : (packFlags f0 f1 f2)[2] = f2 := by
  cases f0 <;> cases f1 <;> cases f2 <;> decide

/-- A flag byte with its reserved bits zero is the packing of its three flags (30_encoding.md R79). -/
theorem packFlags_of_reserved (b : Byte) (h : flagsReserved b = true) :
    packFlags b[0] b[1] b[2] = b := by
  revert h
  revert b
  decide

/-! ### Bytes on the wire -/

/-- Three bytes that arrive are three `PROCESS`. -/
theorem pushThree_eq_runOps (b0 b1 b2 : Byte) (n0 n1 n2 : Nat) (s : State) :
    pushThree b0 b1 b2 n0 n1 n2 s = runOps [.process b0 n0, .process b1 n1, .process b2 n2] s := by
  show _ = andThen (execProcess b0 n0 s) fun s1 => andThen (execProcess b1 n1 s1) fun s2 =>
    andThen (execProcess b2 n2 s2) .next
  simp only [andThen_self]
  rfl

/-- Received bytes decode to a request row that does what `PROCESS` of each of them does, or to these `PROCESS` (30_encoding.md
R73, R81). -/
theorem decodeRequest_cases (clockW : Nat) (arrivals : List (Byte × Nat)) :
    (∃ i, decodeRequest clockW arrivals = .ok i ∧ ∀ s, exec i s = runOps (pushArrivals clockW arrivals) s) ∨
      decodeRequest clockW arrivals = .error (.otherBytes (pushArrivals clockW arrivals)) := by
  unfold decodeRequest
  split
  case h_1 b0 n0 b1 n1 b2 n2 =>
    split_ifs with h h'
    · obtain ⟨rfl, rfl, rfl⟩ := h
      exact .inl ⟨_, rfl, pushThree_eq_runOps _ _ _ _ _ _⟩
    · obtain ⟨rfl, rfl, rfl⟩ := h'
      exact .inl ⟨_, rfl, pushThree_eq_runOps _ _ _ _ _ _⟩
    · exact .inr rfl
  case h_2 => exact .inr rfl

/-- Bits 7:3 of a byte are 0 exactly when it is below 8 (30_encoding.md R79). -/
theorem flagsReserved_iff (b : Byte) : flagsReserved b = true ↔ b.toNat < 8 := by
  revert b
  unfold flagsReserved
  decide

end Sys2Proof
end

