-- ==== Sys2Proof/Laws/PerInstr.lean ====
section
/-!
SUPPORT. Per-instruction families (LAWS.json). `CommandCode`: an operation is presented as a command word whose low byte is its
code (30_encoding.md R84), and a wire row as a message (R73 to R76).
-/

namespace Sys2Proof.Laws.CommandCode

open Sys2Proof Sys2Proof.Machine

/-- The low byte of an operation's command word is its code; a wire row is presented as a message. -/
def Statement (i : Instr) : Prop :=
  ∀ clockW : Nat,
    match operationCode i, encode clockW i with
    | some c, .command w => fieldAt 0 8 w = c
    | none, .request _ => True
    | none, .response _ => True
    | _, _ => False

theorem process (b : Byte) (now : Nat) : Statement (.process b now) := fun _ => fieldAt_zero_packFields ..
theorem reset : Statement .reset := fun _ => fieldAt_zero_packFields ..
theorem getData : Statement .getData := fun _ => fieldAt_zero_packFields ..
theorem vote (r0 r1 r2 : Reading) : Statement (.vote r0 r1 r2) := fun _ => fieldAt_zero_packFields ..
theorem encTemp (st : Byte) (a0 a1 a2 : Bool) (p0 p1 p2 avg : Temp) : Statement (.encTemp st a0 a1 a2 p0 p1 p2 avg) :=
  fun _ => fieldAt_zero_packFields ..
theorem encSys (ss : Byte) (g0 g1 g2 : Bool) : Statement (.encSys ss g0 g1 g2) := fun _ => fieldAt_zero_packFields ..
theorem encErr (ec : Byte) : Statement (.encErr ec) := fun _ => fieldAt_zero_packFields ..
theorem send : Statement .send := fun _ => fieldAt_zero_packFields ..
theorem reqTemperature (n0 n1 n2 : Nat) : Statement (.reqTemperature n0 n1 n2) := fun _ => trivial
theorem reqSystemStatus (n0 n1 n2 : Nat) : Statement (.reqSystemStatus n0 n1 n2) := fun _ => trivial
theorem rspTemperature (st : Byte) (p0 p1 p2 : Temp) (a0 a1 a2 : Bool) (avg : Temp) (k : Byte) :
    Statement (.rspTemperature st p0 p1 p2 a0 a1 a2 avg k) := fun _ => trivial
theorem rspSystemStatus (ss : Byte) (g0 g1 g2 : Bool) (k : Byte) : Statement (.rspSystemStatus ss g0 g1 g2 k) :=
  fun _ => trivial
theorem rspError (ec k : Byte) : Statement (.rspError ec k) := fun _ => trivial

end Sys2Proof.Laws.CommandCode
end

