-- ==== Sys2Proof/Laws/Reader.lean ====
section
/-!
SUPPORT. What the Request Reader's operations can do, said once (40_request_reader.md): the timeout check, the append, the
first byte, and `PROCESS` in each of the situations of a byte that arrives.
-/

namespace Sys2Proof.Machine

/-- The timeout check leaves the state as it was, or abandons a message that has timed out. -/
theorem checkTimeout_eq_next {now : Nat} {s t : State} (h : checkTimeout now s = .next t) :
    (t = toStart s ∧ timedOut now s = true) ∨ (t = s ∧ timedOut now s = false) := by
  unfold checkTimeout at h
  unfold timedOut
  split at h
  case h_1 hrs =>
    obtain ⟨t0, ht0, h⟩ := readElement_eq_next.1 h
    split at h <;> cases h <;> simp_all
  case h_2 hrs => cases h; simp [hrs]
  case h_3 hrs => cases h; simp [hrs]

theorem checkTimeout_of_timedOut {now : Nat} {s : State} (h : timedOut now s = true) :
    checkTimeout now s = .next (toStart s) := by
  unfold timedOut at h
  split at h
  case h_1 t0 hrs ht0 => simp_all [checkTimeout]
  case h_2 => cases h

theorem checkTimeout_of_inTime {now : Nat} {s : State} (h : inTime now s = true) : checkTimeout now s = .next s := by
  unfold inTime at h
  split at h
  case h_1 t0 hrs ht0 => simp_all [checkTimeout]
  case h_2 => cases h

theorem checkTimeout_of_not_collect {now : Nat} {s : State} (h : s.rs ≠ .collect) : checkTimeout now s = .next s := by
  unfold checkTimeout
  split
  case h_1 hrs => exact absurd hrs h
  case h_2 => rfl
  case h_3 => rfl

/-- A byte in time finds the reader in `COLLECT`. -/
theorem rs_of_inTime {now : Nat} {s : State} (h : inTime now s = true) : s.rs = .collect := by
  unfold inTime at h
  split at h
  case h_1 hrs _ => exact hrs
  case h_2 => cases h

/-- A byte in time: `T0` is written and the elapsed time is below the timeout. -/
theorem t0_of_inTime {now : Nat} {s : State} (h : inTime now s = true) :
    ∃ t0, s.t0 = some t0 ∧ elapsed s.cfg.clockW now t0 < s.cfg.rxTimeout := by
  unfold inTime at h
  split at h
  case h_1 t0 _ ht0 => exact ⟨t0, ht0, by simpa using h⟩
  case h_2 => cases h

/-- In `COLLECT` with `T0` written a byte is in time or begins a message. -/
theorem inTime_or_begins {now : Nat} {s : State} (h : s.rs = .collect → s.t0.isSome = true) :
    inTime now s = true ∨ beginsMessage now s = true := by
  unfold inTime beginsMessage timedOut
  cases hrs : s.rs <;> simp
  cases ht0 : s.t0 with
  | none => simp_all
  | some t0 => simp; omega

/-- The timeout is inclusive: a byte is not both in time and the first of a message. -/
theorem not_begins_of_inTime {now : Nat} {s : State} (h : inTime now s = true) : beginsMessage now s = false := by
  obtain ⟨t0, ht0, hlt⟩ := t0_of_inTime h
  simp [beginsMessage, timedOut, rs_of_inTime h, ht0]
  omega

/-- The append with room: the byte is stored, and the third byte completes the message (R103, R104). -/
theorem appendByte_of_lt {b : Byte} {s : State} (h : s.wpos < s.cfg.rxCapacity) :
    appendByte b s = { s with
      rs := (if s.wpos + 1 = 3 then .done else s.rs), wpos := s.wpos + 1, rxb := Memory.write s.rxb s.wpos b,
      results := s.results ++ [.reqAvail (decide (s.wpos + 1 = 3))] } := by
  unfold appendByte
  rw [if_pos h]
  by_cases h3 : s.wpos + 1 = requestSize
  · rw [if_pos h3]
    have h3' : s.wpos + 1 = 3 := h3
    simp [h3', reply, complete, storeByte]
  · rw [if_neg h3]
    have h3' : ¬ s.wpos + 1 = 3 := h3
    simp only [if_neg h3', decide_eq_false h3', reply, storeByte]

/-- The append without room is a framing failure (R103). -/
theorem appendByte_of_ge {b : Byte} {s : State} (h : s.cfg.rxCapacity ≤ s.wpos) :
    appendByte b s = { s with rs := .start, wpos := 0, results := s.results ++ [.reqAvail false] } := by
  unfold appendByte
  rw [if_neg (by omega)]
  rfl

/-- The first byte of a message, under a capacity of at least one (R102). -/
theorem firstByte_eq {b : Byte} {now : Nat} {s : State} (h : 3 ≤ s.cfg.rxCapacity) :
    firstByte b now s =
      if b = requestTag then
        { s with rs := .collect, wpos := 1, t0 := some (now % 2 ^ s.cfg.clockW), rxb := Memory.write s.rxb 0 requestTag,
                 results := s.results ++ [.reqAvail false] }
      else
        { s with rs := .start, wpos := 0, t0 := some (now % 2 ^ s.cfg.clockW), results := s.results ++ [.reqAvail false] } := by
  unfold firstByte
  split
  case isTrue hb =>
    rw [appendByte_of_lt (by simp only [beginMessage_wpos, beginMessage_cfg]; omega), hb]
    simp [beginMessage, clockReading]
  case isFalse hb => rfl

/-- `PROCESS` of a byte that begins a message. -/
theorem execProcess_of_begins {b : Byte} {now : Nat} {s : State} (hc : configLegal s.cfg = true)
    (h : beginsMessage now s = true) : execProcess b now s = .next (firstByte b now (toStart s)) := by
  unfold execProcess
  rw [guardConfig_of_legal hc]
  unfold beginsMessage at h
  cases hrs : s.rs with
  | collect =>
    simp only [hrs] at h
    rw [checkTimeout_of_timedOut h]
    rfl
  | start =>
    rw [checkTimeout_of_not_collect (by simp [hrs])]
    simp only [andThen_next, handleByte, hrs]
    congr 1
  | done =>
    rw [checkTimeout_of_not_collect (by simp [hrs])]
    simp only [andThen_next, handleByte, hrs]
    congr 1

/-- `PROCESS` of a later byte in time. -/
theorem execProcess_of_inTime {b : Byte} {now : Nat} {s : State} (hc : configLegal s.cfg = true)
    (h : inTime now s = true) : execProcess b now s = .next (appendByte b s) := by
  unfold execProcess
  rw [guardConfig_of_legal hc, checkTimeout_of_inTime h]
  simp [handleByte, rs_of_inTime h]

/-- Everything `PROCESS` can do when it answers a next state. -/
theorem execProcess_eq_next {b : Byte} {now : Nat} {s t : State} (h : execProcess b now s = .next t) :
    configLegal s.cfg = true ∧
      ((beginsMessage now s = true ∧ t = firstByte b now (toStart s)) ∨ (inTime now s = true ∧ t = appendByte b s)) := by
  obtain ⟨hc, h'⟩ := guardConfig_eq_next.1 h
  refine ⟨hc, ?_⟩
  have ht0 : s.rs = .collect → s.t0.isSome = true := by
    intro hrs
    obtain ⟨u, hu, -⟩ := andThen_eq_next.1 h'
    unfold checkTimeout at hu
    simp only [hrs] at hu
    cases hs : s.t0 with
    | none => simp [hs] at hu
    | some t0 => rfl
  rcases inTime_or_begins (now := now) ht0 with hi | hb
  · rw [execProcess_of_inTime hc hi] at h
    exact .inr ⟨hi, by cases h; rfl⟩
  · rw [execProcess_of_begins hc hb] at h
    exact .inl ⟨hb, by cases h; rfl⟩

/-- The four checks of `GET_DATA` succeed exactly on the two legal requests (R121, R123.3). -/
theorem decodeFrame_eq (wpos : Nat) (b0 b1 b2 : Byte) :
    decodeFrame wpos b0 b1 b2 =
      if wpos = 3 ∧ b0 = requestTag ∧ b0 ^^^ b1 = b2 ∧ b1 = 0#8 then .data true .temperature
      else if wpos = 3 ∧ b0 = requestTag ∧ b0 ^^^ b1 = b2 ∧ b1 = 1#8 then .data true .systemStatus
      else .data false .unknown := by
  unfold decodeFrame requestSize
  by_cases h1 : wpos = 3 <;> by_cases h2 : b0 = requestTag <;> by_cases h3 : b0 ^^^ b1 = b2 <;>
    by_cases h4 : b1 = 0#8 <;> by_cases h5 : b1 = 1#8 <;> simp [h1, h2, h3, h4, h5]

/-- Everything `GET_DATA` can do when it answers a next state. -/
theorem execGetData_eq_next {s t : State} (h : execGetData s = .next t) :
    configLegal s.cfg = true ∧
      ((s.rs ≠ .done ∧ t = reply (.data false .unknown) s) ∨
        ∃ b0 b1 b2, s.rs = .done ∧ Memory.read s.rxb 0 = some b0 ∧ Memory.read s.rxb 1 = some b1 ∧
          Memory.read s.rxb 2 = some b2 ∧ t = reply (decodeFrame s.wpos b0 b1 b2) s) := by
  obtain ⟨hc, h⟩ := guardConfig_eq_next.1 h
  refine ⟨hc, ?_⟩
  split at h
  case h_1 hrs =>
    obtain ⟨b0, h0, h⟩ := readElement_eq_next.1 h
    obtain ⟨b1, h1, h⟩ := readElement_eq_next.1 h
    obtain ⟨b2, h2, h⟩ := readElement_eq_next.1 h
    exact .inr ⟨b0, b1, b2, hrs, h0, h1, h2, by cases h; rfl⟩
  case h_2 hrs => exact .inl ⟨by simp [hrs], by cases h; rfl⟩
  case h_3 hrs => exact .inl ⟨by simp [hrs], by cases h; rfl⟩

/-- `GET_DATA` outside `DONE`. -/
theorem execGetData_of_not_done {s : State} (hc : configLegal s.cfg = true) (h : s.rs ≠ .done) :
    execGetData s = .next (reply (.data false .unknown) s) := by
  unfold execGetData
  rw [guardConfig_of_legal hc]
  split
  case h_1 hrs => exact absurd hrs h
  case h_2 => rfl
  case h_3 => rfl

/-- `GET_DATA` in `DONE` with the frame written. -/
theorem execGetData_of_done {s : State} {b0 b1 b2 : Byte} (hc : configLegal s.cfg = true) (h : s.rs = .done)
    (h0 : Memory.read s.rxb 0 = some b0) (h1 : Memory.read s.rxb 1 = some b1) (h2 : Memory.read s.rxb 2 = some b2) :
    execGetData s = .next (reply (decodeFrame s.wpos b0 b1 b2) s) := by
  unfold execGetData
  rw [guardConfig_of_legal hc]
  simp [h, h0, h1, h2]

end Sys2Proof.Machine
end

