-- ==== Sys2Proof/Tests/Slice0.lean ====
section
/-!
SUPPORT. The model's own tests. Expected values are the spec's own vectors (95_test_vectors.md, cited by their V- names) or
words written out from 30_encoding.md. Then, for every statement with hypotheses, a witness that meets them.
-/

namespace Sys2Proof.Tests

open Sys2Proof Sys2Proof.Machine

/-! ### Small states -/

/-- A legal configuration at every boundary: `CLOCK_W = 1`, `RX_TIMEOUT = 1`, `RX_CAPACITY = 3`. -/
def tight : Config := { tol := 0, rxTimeout := 1, clockW := 1, rxCapacity := 3 }

/-- The vectors' configuration with another tolerance. -/
def withTol (tol : Int) : State := State.powerOn { Config.ofVectors with tol := tol }

/-- A message in progress whose first byte came at `t0`, with `bytes` collected. -/
def collecting (t0 : Nat) (bytes : List Byte) : State :=
  { State.reset with
    rs := .collect, wpos := bytes.length, t0 := some t0, rxb := Memory.writeList [] 0 bytes }

/-- A completed request. -/
def completed (t0 : Nat) (b0 b1 b2 : Byte) : State :=
  { collecting t0 [b0, b1, b2] with rs := .done }

/-- The message buffer after `ENC_ERR 1` from power-on. -/
def encoded : State :=
  { State.reset with mb := [(0, 0x03#8), (1, 0x01#8), (2, 0x02#8)], msize := some .three }

/-- Power-on with one operation presented. -/
def given (h : HostInput) : State := { State.reset with host := [h] }

/-- The bytes of a buffered message after an operation. -/
def bufferAfter (o : Out) : Option (List Byte) := (nextState o).bind bufferedMessage

/-- The vote result after an operation. -/
def voteAfter (o : Out) : Option VoteResult := (nextState o).bind State.vr

/-- The last result after an operation. -/
def resultAfter (o : Out) : Option OpResult := (nextState o).bind fun s => s.results.getLast?

/-- A valid reading of `t` hundredths of a degree. -/
def valid (t : Int) : Reading := { valid := true, temp := BitVec.ofInt 16 t }

/-- An invalid reading. -/
def invalid (t : Int) : Reading := { valid := false, temp := BitVec.ofInt 16 t }

/-! ### Well-formedness: an ill-formed term for each check, and its nearest well-formed neighbour -/

theorem test_wf_process_clock :
    (Instr.process 0x04#8 256).wf 8 = false ∧ (Instr.process 0x04#8 255).wf 8 = true := by decide

theorem test_wf_request_clocks :
    (Instr.reqTemperature 2 0 0).wf 1 = false ∧ (Instr.reqTemperature 0 2 0).wf 1 = false ∧
    (Instr.reqTemperature 0 0 2).wf 1 = false ∧ (Instr.reqTemperature 1 1 1).wf 1 = true ∧
    (Instr.reqSystemStatus 2 0 0).wf 1 = false ∧ (Instr.reqSystemStatus 0 2 0).wf 1 = false ∧
    (Instr.reqSystemStatus 0 0 2).wf 1 = false ∧ (Instr.reqSystemStatus 1 1 1).wf 1 = true := by decide

/-- Byte 1 is at most the sentinel (R80); the last byte is the XOR of the others (R72). The good messages are V-EN-1, V-EN-9
and V-EN-14. -/
theorem test_wf_temperature_response :
    (Instr.rspTemperature 0x04#8 0#16 0#16 0#16 false false false 0#16 0x05#8).wf 1 = false ∧
    (Instr.rspTemperature 0x00#8 2400#16 2425#16 2420#16 true true true 2415#16 0x05#8).wf 1 = false ∧
    (Instr.rspTemperature 0x00#8 2400#16 2425#16 2420#16 true true true 2415#16 0x04#8).wf 1 = true := by decide

theorem test_wf_system_status_response :
    (Instr.rspSystemStatus 0x04#8 true false true 0x03#8).wf 1 = false ∧
    (Instr.rspSystemStatus 0x03#8 true false true 0x05#8).wf 1 = false ∧
    (Instr.rspSystemStatus 0x03#8 true false true 0x04#8).wf 1 = true := by decide

theorem test_wf_error_response :
    (Instr.rspError 0x03#8 0x00#8).wf 1 = false ∧ (Instr.rspError 0x02#8 0x02#8).wf 1 = false ∧
    (Instr.rspError 0x02#8 0x01#8).wf 1 = true := by decide

/-! ### Decoding: words written out from 30_encoding.md R73 to R76, R84, R85 (bundle layout: log 7) -/

/-- `PROCESS 0xFB, @0x1234`: now, b, 00000000. -/
theorem test_decode_process :
    decode 32 (.command 0b00010010_00110100_11111011_00000000) = .ok (.process 0xFB#8 0x1234) := rfl

theorem test_decode_bare :
    decode 32 (.command 0b00000001) = .ok .reset ∧ decode 32 (.command 0b00000010) = .ok .getData ∧
    decode 32 (.command 0b00000111) = .ok .send := ⟨rfl, rfl, rfl⟩

/-- `VOTE (1,2400), (0,-1), (1,256)`: t2, t1, t0, then v2 v1 v0 = 101, then 00000011. -/
theorem test_decode_vote :
    decode 32 (.command 0b0000000100000000_1111111111111111_0000100101100000_101_00000011) =
      .ok (.vote (valid 2400) (invalid (-1)) (valid 256)) := rfl

/-- `ENC_TEMP 200, [101], -1, 256, -256, -2` (V-EN-7): avg, p2, p1, p0, a2 a1 a0 = 101, st, 00000100. -/
theorem test_decode_enc_temp :
    decode 32 (.command
      0b1111111111111110_1111111100000000_0000000100000000_1111111111111111_101_11001000_00000100) =
      .ok (.encTemp 200#8 true false true 0xFFFF#16 0x0100#16 0xFF00#16 0xFFFE#16) := rfl

/-- `ENC_SYS 1, [011]` (V-EN-10): g2 g1 g0 = 110, ss, 00000101. -/
theorem test_decode_enc_sys :
    decode 32 (.command 0b110_00000001_00000101) = .ok (.encSys 1#8 false true true) := rfl

theorem test_decode_enc_err :
    decode 32 (.command 0b11111111_00000110) = .ok (.encErr 255#8) := rfl

/-- `04 00 04` and `04 01 05` (R73). -/
theorem test_decode_requests :
    decodeTableWord 24 0b00000100_00000000_00000100 = some (.reqTemperature 0 0 0) ∧
    decodeTableWord 24 0b00000100_00000001_00000101 = some (.reqSystemStatus 0 0 0) ∧
    decodeTableWord 24 0b00000100_00000000_00000101 = none := by decide

/-- The message of V-EN-7: `01 03 FF FF 00 01 00 FF 05 FE FF F8`. -/
theorem test_decode_rsp_temperature :
    decodeTableWord 96 0x0103FFFF000100FF05FEFFF8 =
      some (.rspTemperature 0x03#8 0xFFFF#16 0x0100#16 0xFF00#16 true false true 0xFFFE#16 0xF8#8) := by decide

/-- The message of V-EN-10, and its neighbour with a reserved flag bit set (R75). -/
theorem test_decode_rsp_system_status :
    decodeTableWord 32 0b00000010_00000001_00000110_00000101 = some (.rspSystemStatus 1#8 false true true 0x05#8) ∧
    decodeTableWord 32 0b00000010_00000001_00001110_00000101 = none := by decide

theorem test_decode_rsp_error :
    decodeTableWord 24 0b00000011_00000001_00000010 = some (.rspError 0x01#8 0x02#8) := by decide

/-- V-IF-1: bit 3 of the command word; and each higher reserved bit. -/
theorem test_reserved_bits_refused :
    refusalOf (step (given (.command 0x08))) = some .badCommand ∧
    refusalOf (step (given (.command 0x10))) = some .badCommand ∧
    refusalOf (step (given (.command 0x20))) = some .badCommand ∧
    refusalOf (step (given (.command 0x40))) = some .badCommand ∧
    refusalOf (step (given (.command 0x87))) = some .badCommand := by decide

/-- Log 14: the block emits no message of these bytes (R70, R71, R79). -/
theorem test_bad_message_refused :
    refusalOf (step (given (.response [0x05#8, 0x00#8, 0x05#8]))) = some .badMessage ∧
    refusalOf (step (given (.response [0x02#8, 0x00#8, 0x08#8, 0x0A#8]))) = some .badMessage ∧
    refusalOf (step (given (.response [0x03#8, 0x00#8]))) = some .badMessage := by decide

/-- V-RR-3 and V-RR-19 as received bytes: a bad checksum frames, and a stray byte after a request loses it (R81). -/
theorem test_received_bytes_are_processed :
    (nextState (step (given (.request [(0x04#8, 1000), (0x00#8, 1001), (0x05#8, 1002)])))).map
      (fun s => (s.rs, s.results)) =
      some (.done, [.reqAvail false, .reqAvail false, .reqAvail true]) ∧
    (nextState (step (given (.request [(0x04#8, 0), (0x00#8, 0), (0x04#8, 0), (0xAA#8, 5)])))).map
      (fun s => (s.rs, s.t0)) = some (.start, some 5) := by decide

/-- R207: a malformed command word ends the run there; what was returned before it stays. -/
theorem test_observation_of_a_refused_run :
    observeRun Config.ofVectors [.command 0x02, .command 0x08, .command 0x02] =
      { ending := .refused .badCommand, results := [.data false .unknown], tx := [] } := by decide

/-! ### Request Reader (95_test_vectors.md 2.1) -/

/-- V-RR-6, first byte: a stray. -/
theorem test_process_stray :
    exec (.process 0xAA#8 10) State.reset =
      .next { State.reset with t0 := some 10, results := [.reqAvail false] } := by rfl

/-- V-RR-1, third byte. -/
theorem test_process_third_byte :
    exec (.process 0x04#8 1002) (collecting 1000 [0x04#8, 0x00#8]) =
      .next { completed 1000 0x04#8 0x00#8 0x04#8 with results := [.reqAvail true] } := by rfl

/-- V-RR-14, `RESET` of a message in progress. -/
theorem test_reset :
    exec .reset (collecting 0 [0x04#8]) = .next { collecting 0 [0x04#8] with rs := .start, wpos := 0 } := by rfl

/-- V-RR-2; and V-RR-5: the request type is unsigned. -/
theorem test_get_data :
    resultAfter (exec .getData (completed 1000 0x04#8 0x01#8 0x05#8)) = some (.data true .systemStatus) ∧
    resultAfter (exec .getData (completed 0 0x04#8 0xFF#8 0xFB#8)) = some (.data false .unknown) := by decide

/-- V-RR-3 (checksum) and V-RR-16 (not in DONE). -/
theorem test_get_data_fails :
    resultAfter (exec .getData (completed 1000 0x04#8 0x00#8 0x05#8)) = some (.data false .unknown) ∧
    resultAfter (exec .getData State.reset) = some (.data false .unknown) := by decide

/-- V-RR-1 and V-RR-10 as request rows: the third byte comes at elapsed 2, and at elapsed 100. -/
theorem test_req_temperature :
    (nextState (exec (.reqTemperature 1000 1001 1002) State.reset)).map (fun s => (s.rs, s.wpos, s.rxb)) =
      some (.done, 3, [(0, 0x04#8), (1, 0x00#8), (2, 0x04#8)]) ∧
    (nextState (exec (.reqTemperature 1000 1099 1100) State.reset)).map (fun s => (s.rs, s.wpos, s.t0)) =
      some (.collect, 1, some 1100) := by decide

/-- V-RR-2 as a request row. -/
theorem test_req_system_status :
    (nextState (exec (.reqSystemStatus 1000 1001 1002) State.reset)).map (fun s => (s.rs, s.rxb, s.results)) =
      some (.done, [(0, 0x04#8), (1, 0x01#8), (2, 0x05#8)], [.reqAvail false, .reqAvail false, .reqAvail true]) := by
  decide

/-! ### Consensus Engine (95_test_vectors.md 2.2) -/

/-- V-VO-3: truncation toward zero, and an invalid sensor shown as 0. -/
theorem test_vote_truncates :
    voteAfter (exec (.vote (valid (-101)) (valid (-100)) (invalid 500)) (withTol 5)) =
      some { status := 0#8, agree0 := true, agree1 := true, agree2 := false, temp0 := 0xFF9B#16, temp1 := 0xFF9C#16,
             temp2 := 0#16, avg := 0xFF9C#16 } := by decide

/-- V-VO-15: a difference of 50 agrees, 51 does not. -/
theorem test_vote_boundary :
    voteAfter (exec (.vote (valid 0) (valid 51) (valid (-50))) (withTol 50)) =
      some { status := 0#8, agree0 := true, agree1 := false, agree2 := true, temp0 := 0#16, temp1 := 51#16,
             temp2 := 0xFFCE#16, avg := 0xFFE7#16 } := by decide

/-! ### Response Encoder and serializer (95_test_vectors.md 2.3) -/

/-- V-EN-7: a clamped ordinal, and the bytes of negative values. -/
theorem test_enc_temp :
    bufferAfter (exec (.encTemp 200#8 true false true 0xFFFF#16 256#16 0xFF00#16 0xFFFE#16) State.reset) =
      some [0x01#8, 0x03#8, 0xFF#8, 0xFF#8, 0x00#8, 0x01#8, 0x00#8, 0xFF#8, 0x05#8, 0xFE#8, 0xFF#8, 0xF8#8] := by
  decide

/-- V-EN-9 and V-EN-10. -/
theorem test_enc_sys :
    bufferAfter (exec (.encSys 9#8 true false true) State.reset) = some [0x02#8, 0x03#8, 0x05#8, 0x04#8] ∧
    bufferAfter (exec (.encSys 1#8 false true true) State.reset) = some [0x02#8, 0x01#8, 0x06#8, 0x05#8] := by
  decide

/-- V-EN-15 and V-EN-13. -/
theorem test_enc_err :
    bufferAfter (exec (.encErr 255#8) State.reset) = some [0x03#8, 0x02#8, 0x01#8] ∧
    bufferAfter (exec (.encErr 0#8) State.reset) = some [0x03#8, 0x00#8, 0x03#8] := by decide

/-- V-EN-17, the first `SEND`. -/
theorem test_send : exec .send encoded = .next { encoded with tx := [0x03#8, 0x01#8, 0x02#8] } := by rfl

/-- V-EN-18. -/
theorem test_send_unwritten : faultOf (exec .send State.reset) = some .sendUnwritten := by decide

/-- The message of V-EN-3, sent. -/
theorem test_rsp_temperature :
    (nextState (exec (.rspTemperature 0x00#8 0xFF9B#16 0xFF9C#16 0x0000#16 true true false 0xFF9C#16 0x66#8)
      State.reset)).map State.tx =
      some [0x01#8, 0x00#8, 0x9B#8, 0xFF#8, 0x9C#8, 0xFF#8, 0x00#8, 0x00#8, 0x03#8, 0x9C#8, 0xFF#8, 0x66#8] := by
  decide

/-- The message of V-EN-12, sent. -/
theorem test_rsp_system_status :
    (nextState (exec (.rspSystemStatus 0x03#8 true true false 0x02#8) State.reset)).map State.tx =
      some [0x02#8, 0x03#8, 0x03#8, 0x02#8] := by decide

/-- The message of V-EX-6, sent. -/
theorem test_rsp_error :
    (nextState (exec (.rspError 0x01#8 0x02#8) State.reset)).map State.tx = some [0x03#8, 0x01#8, 0x02#8] := by decide

/-! ### The table's rows as the first instruction after reset -/

theorem test_first_instruction :
    (nextState (step (State.reset.withFetchWord 8 0x00))).map (fun s => (s.t0, s.results)) =
      some (some 0, [.reqAvail false]) ∧
    (nextState (step (State.reset.withFetchWord 24 0x040004))).map State.rs = some .done ∧
    (nextState (step (State.reset.withFetchWord 24 0x030102))).map State.tx = some [0x03#8, 0x01#8, 0x02#8] := by
  decide

/-- A row is placed where the next step takes it, byte 0 first. -/
theorem test_withFetchWord_places_one :
    (State.reset.withFetchWord 8 0x01).host = [.command 1] ∧
    (State.reset.withFetchWord 32 0x02000705).host = [.response [0x02#8, 0x00#8, 0x07#8, 0x05#8]] := by decide

/-! ### Witnesses: states and operands that meet the hypotheses of the statements -/

/-- Legal configurations: the vectors', and one at every bound of R222. This is all that the statements on the encoders
(`EncTempWritesTheMessage`, `EncSysWritesTheMessage`, `EncErrWritesTheMessage`), the response rows
(`ResponseRowsEncodeAndSend`) and on `VOTE` over all readings (`VoteShowsValidTemperaturesOnly`, `VoteFlagsComeInPairs`,
`VoteTreatsSensorsAlike`) ask of a state. -/
theorem witness_legal_configs : configLegal Config.ofVectors = true ∧ configLegal tight = true := by decide

theorem witness_StepKeepsInvariant :
    MachineInv (given (.command 0x0400)) ∧ ∃ t, step (given (.command 0x0400)) = .next t := ⟨by decide, _, rfl⟩

/-- One run into each reader state, `COLLECT` with one and with two bytes. -/
theorem witness_ReaderInvariantOnEveryRun :
    configLegal Config.ofVectors = true ∧
    (∃ s, runOps [.reset] (State.powerOn Config.ofVectors) = .next s ∧ s.rs = .start) ∧
    (∃ s, runOps [.process 0x04#8 0] (State.powerOn Config.ofVectors) = .next s ∧ s.rs = .collect ∧ s.wpos = 1) ∧
    (∃ s, runOps [.process 0x04#8 0, .process 0x00#8 0] (State.powerOn Config.ofVectors) = .next s ∧
      s.rs = .collect ∧ s.wpos = 2) ∧
    (∃ s, runOps [.reqTemperature 0 0 0] (State.powerOn Config.ofVectors) = .next s ∧ s.rs = .done) :=
  ⟨by decide, ⟨_, rfl, rfl⟩, ⟨_, rfl, rfl, rfl⟩, ⟨_, rfl, rfl, rfl⟩, ⟨_, rfl, rfl⟩⟩

theorem witness_StepRunsDecodedInstruction :
    (given (.command 0x01)).host = .command 0x01 :: [] ∧
    decode (given (.command 0x01)).cfg.clockW (.command 0x01) = .ok .reset ∧
    decode State.reset.cfg.clockW (tableInput 24 0x040004) = .ok (.reqTemperature 0 0 0) := ⟨rfl, rfl, rfl⟩

theorem witness_StepWithoutOperationIsIdle : State.reset.host = [] := rfl

/-- The words at both ends of the reserved field, the greatest legal word, and ordinals at the sentinels. -/
theorem witness_OnlyReservedBitsRefuseACommand :
    (given (.command 0x08)).host = .command 0x08 :: [] ∧ 0x08 / 8 % 32 ≠ 0 ∧
    (given (.command 0x80)).host = .command 0x80 :: [] ∧ 0x80 / 8 % 32 ≠ 0 ∧
    (given (.command 0x07)).host = .command 0x07 :: [] ∧ 0x07 / 8 % 32 = 0 ∧
    configLegal (given (.command 0x07)).cfg = true ∧
    (∃ t, exec (.encErr 1#8) (given (.command 0x07)) = .next t) ∧
    (∃ t, exec (.encErr 2#8) (given (.command 0x07)) = .next t) ∧
    (∃ t, exec (.encSys 3#8 true true true) (given (.command 0x07)) = .next t) ∧
    ∃ t, exec (.encTemp 3#8 true true true 0#16 0#16 0#16 0#16) (given (.command 0x07)) = .next t :=
  ⟨rfl, by decide, rfl, by decide, rfl, by decide, by decide, ⟨_, rfl⟩, ⟨_, rfl⟩, ⟨_, rfl⟩, _, rfl⟩

/-- V-IF-3, V-IF-4 and the other two bounds of R222, each with its nearest legal value. -/
theorem witness_IllegalConfigurationRefused :
    refusalOf (exec .reset (State.powerOn { tight with rxCapacity := 2 })) = some .badConfig ∧
    refusalOf (exec .reset (State.powerOn { tight with clockW := 0, rxTimeout := 0 })) = some .badConfig ∧
    refusalOf (exec .reset (State.powerOn { tight with rxTimeout := 2 })) = some .badConfig ∧
    refusalOf (exec .reset (State.powerOn tight)) = none := by decide

theorem witness_ConfigurationNeverChanges : ∃ t, step (given (.command 0x01)) = .next t := ⟨_, rfl⟩

theorem witness_EveryOperationCompletesOrIsSendUnwritten :
    MachineInv encoded ∧ MachineInv State.reset ∧ configLegal State.reset.cfg = true ∧
    ¬(Instr.send = .send ∧ encoded.msize = none) ∧ State.reset.msize = none ∧
    (observeRun Config.ofVectors [.command 0x07]).ending = .faulted .sendUnwritten := by decide

theorem witness_EachStateElementHasItsOwner :
    (∃ t, exec (.process 0x04#8 0) State.reset = .next t) ∧ ownsVote (.process 0x04#8 0) = false ∧
    ownsBuffer (.process 0x04#8 0) = false ∧ ownsTransmit (.process 0x04#8 0) = false ∧
    (∃ t, exec .send encoded = .next t) ∧ ownsReader .send = false ∧ returnsResult .send = false :=
  ⟨⟨_, rfl⟩, rfl, rfl, rfl, ⟨_, rfl⟩, rfl, rfl⟩

theorem witness_TransmitLogAndResultsOnlyGrow : ∃ t, runOps [.getData, .send] encoded = .next t := ⟨_, rfl⟩

/-- Two different states of the same view. -/
theorem witness_HiddenStateNeverShows :
    let s := { encoded with mb := encoded.mb ++ [(7, 0x55#8)], t0 := some 9, rxb := [(2, 0x11#8)] }
    MachineInv s ∧ MachineInv encoded ∧ SameView s encoded ∧ s ≠ encoded := by decide

/-- A run that completes, and each kind of end: a next state, a fault (V-EN-18), a refusal (V-IF-1). -/
theorem witness_RunEndsAtTheFirstStop :
    ∃ t, runInputs [.command 0x02] State.reset = .next t ∧ (∃ u, applyInput (.command 0x01) t = .next u) ∧
      applyInput (.command 0x07) t = .fault .sendUnwritten ∧ applyInput (.command 0x08) t = .refused .badCommand ∧
      0x08 / 8 % 32 ≠ 0 := ⟨_, rfl, ⟨_, rfl⟩, rfl, rfl, by decide⟩

/-- A legal request and other bytes. -/
theorem witness_ReceivedBytesAreProcessedOneByOne :
    (given (.request [(0x04#8, 0), (0x00#8, 0), (0x04#8, 0)])).host = .request [(0x04#8, 0), (0x00#8, 0), (0x04#8, 0)] :: [] ∧
    (given (.request [(0x01#8, 2 ^ 32)])).host = .request [(0x01#8, 2 ^ 32)] :: [] := ⟨rfl, rfl⟩

/-- A response, and its neighbours: a flag byte of 8, a missing byte, another identifier. -/
theorem witness_OnlyResponsesDecodeAsEmitted :
    (given (.response [0x02#8, 0xFF#8, 0x07#8, 0xFF#8])).host = .response [0x02#8, 0xFF#8, 0x07#8, 0xFF#8] :: [] ∧
    (∃ t, step (given (.response [0x02#8, 0xFF#8, 0x07#8, 0xFF#8])) = .next t) ∧
    step (given (.response [0x02#8, 0xFF#8, 0x08#8, 0xFF#8])) = .refused .badMessage ∧
    step (given (.response [0x02#8, 0xFF#8, 0x07#8])) = .refused .badMessage ∧
    step (given (.response [0x04#8, 0xFF#8, 0x07#8, 0xFF#8])) = .refused .badMessage :=
  ⟨rfl, ⟨_, rfl⟩, rfl, rfl, rfl⟩

theorem witness_CapacityOfThreeOrMoreNeverShows :
    configLegal tight = true ∧ 3 ≤ tight.rxCapacity ∧ 3 ≤ 200 ∧ { tight with rxCapacity := 200 } ≠ tight := by decide

theorem witness_DecodeOfEncodeIsTheInstruction :
    (Instr.process 0xFF#8 (2 ^ 32 - 1)).fits 32 = true ∧ (Instr.reqTemperature 1 1 1).fits 1 = true ∧
    (Instr.reqSystemStatus 0 1 0).fits 1 = true := by decide

/-- A command word of each code with bits above it set, and one with bit 7 set. -/
theorem witness_CommandWordSelectsTheOperation :
    0xFF00 % 256 = 0 ∧ 0xFF01 % 256 = 1 ∧ 0xFF02 % 256 = 2 ∧ 0xFF03 % 256 = 3 ∧ 0xFF04 % 256 = 4 ∧ 0xFF05 % 256 = 5 ∧
    0xFF06 % 256 = 6 ∧ 0xFF07 % 256 = 7 ∧ 0xFF80 / 8 % 32 ≠ 0 ∧
    (given (.command 0xFF80)).host = .command 0xFF80 :: [] := by decide

/-- Each operation's word at the upper end of its bundle, and one response. -/
theorem witness_EncodeOfDecodeIsTheWord :
    decode 1 (.response [0x03#8, 0xFF#8, 0xFF#8]) = .ok (.rspError 0xFF#8 0xFF#8) ∧
    decode 1 (.request [(0x04#8, 1), (0x01#8, 0), (0x05#8, 1)]) = .ok (.reqSystemStatus 1 0 1) ∧
    (∀ a ∈ [((0x04#8 : Byte), 1), (0x01#8, 0), (0x05#8, 1)], a.2 < 2 ^ 1) ∧
    (∃ i, decode 1 (.command (2 ^ 17 - 256)) = .ok i ∧ 2 ^ 17 - 256 < 2 ^ (16 + 1)) ∧
    (∃ i, decode 1 (.command (2 ^ 59 - 256 + 3)) = .ok i ∧ 2 ^ 59 - 256 + 3 < 2 ^ 59) ∧
    (∃ i, decode 1 (.command (2 ^ 83 - 256 + 4)) = .ok i ∧ 2 ^ 83 - 256 + 4 < 2 ^ 83) ∧
    (∃ i, decode 1 (.command (2 ^ 19 - 256 + 5)) = .ok i ∧ 2 ^ 19 - 256 + 5 < 2 ^ 19) ∧
    (∃ i, decode 1 (.command (2 ^ 16 - 256 + 6)) = .ok i ∧ 2 ^ 16 - 256 + 6 < 2 ^ 16) ∧
    (∃ i, decode 1 (.command 7) = .ok i ∧ 7 < 2 ^ 8) :=
  ⟨rfl, rfl, by decide, ⟨_, rfl, by decide⟩, ⟨_, rfl, by decide⟩, ⟨_, rfl, by decide⟩, ⟨_, rfl, by decide⟩,
    ⟨_, rfl, by decide⟩,
    _, rfl, by decide⟩

theorem witness_DecodedOperandsFit :
    decode 1 (.request [(0x04#8, 3), (0x00#8, 1), (0x04#8, 0)]) = .ok (.reqTemperature 1 1 0) := rfl

/-- `START`, `DONE`, and `COLLECT` at elapsed time exactly `RX_TIMEOUT`; the tag and another byte. -/
theorem witness_ProcessFirstByteBeginsOrIsStray :
    configLegal State.reset.cfg = true ∧ 2 ^ 32 - 1 < 2 ^ State.reset.cfg.clockW ∧
    beginsMessage (2 ^ 32 - 1) State.reset = true ∧ beginsMessage 0 (completed 0 0x04#8 0x00#8 0x04#8) = true ∧
    beginsMessage 1100 (collecting 1000 [0x04#8]) = true ∧
    beginsMessage 1099 (collecting 1000 [0x04#8]) = false := by decide

/-- With room, at both write positions; and without, in a state no run reaches. -/
theorem witness_ProcessAppendsLaterByte :
    configLegal State.reset.cfg = true ∧
    (inTime 1099 (collecting 1000 [0x04#8]) = true ∧ (collecting 1000 [0x04#8]).wpos < 3 ∧
      readerInv (collecting 1000 [0x04#8]) = true) ∧
    (inTime 1000 (collecting 1000 [0x04#8, 0x04#8]) = true ∧ (collecting 1000 [0x04#8, 0x04#8]).wpos < 3 ∧
      readerInv (collecting 1000 [0x04#8, 0x04#8]) = true) ∧
    (inTime 1000 (collecting 1000 [0x04#8, 0x04#8, 0x04#8]) = true ∧
      State.reset.cfg.rxCapacity ≤ (collecting 1000 [0x04#8, 0x04#8, 0x04#8]).wpos) := by decide

/-- Both bytes at elapsed 99, one byte collected before; and a byte at elapsed 100. -/
theorem witness_CollectIsLeftWithinTwoBytes :
    let s := collecting 1000 [0x04#8]
    configLegal s.cfg = true ∧ MachineInv s ∧ s.rs = .collect ∧ inTime 1099 s = true ∧ inTime 1100 s = false := by decide

/-- Elapsed time exactly `RX_TIMEOUT`, and one less. -/
theorem witness_ProcessTimeoutIsInclusiveFromFirstByte :
    configLegal State.reset.cfg = true ∧ (collecting 1000 [0x04#8]).rs = .collect ∧
    (collecting 1000 [0x04#8]).t0 = some 1000 ∧ (100 : Int) ≤ ((1100 : Int) - 1000) % 2 ^ 32 ∧
    ((1099 : Int) - 1000) % 2 ^ 32 < 100 ∧ (collecting 1000 [0x04#8]).wpos < 3 ∧ State.reset.rs ≠ .collect := by decide

theorem witness_ReqAvailExactlyOnThirdByte :
    (∃ t, exec (.process 0x04#8 1002) (collecting 1000 [0x04#8, 0x00#8]) = .next t ∧ t.results = [.reqAvail true]) ∧
    ∃ t, exec (.process 0x04#8 0) (completed 0 0x04#8 0x00#8 0x04#8) = .next t ∧ t.wpos = 1 :=
  ⟨⟨_, rfl, rfl⟩, _, rfl, rfl⟩

/-- Across the wrap (V-RR-11), at the last instant in time, at the first late one, and just before a full turn. -/
theorem witness_ClockWrapGivesSmallElapsed :
    let s := collecting 0xFFFFFFF0 [0x04#8]
    s.rs = .collect ∧ s.t0 = some 0xFFFFFFF0 ∧ 2 ^ 32 - 1 < 2 ^ s.cfg.clockW ∧
    inTime ((0xFFFFFFF0 + 99) % 2 ^ 32) s = true ∧ inTime ((0xFFFFFFF0 + 100) % 2 ^ 32) s = false ∧
    inTime ((0xFFFFFFF0 + (2 ^ 32 - 1)) % 2 ^ 32) s = false := by decide

/-- V-RR-20. -/
theorem witness_ZeroTimeoutNeverCompletes :
    let s := State.powerOn { Config.ofVectors with rxTimeout := 0 }
    s.cfg.rxTimeout = 0 ∧ .reqAvail true ∉ s.results ∧
    ∃ t, runOps [.process 0x04#8 0, .process 0x00#8 0] s = .next t :=
  ⟨rfl, by decide, _, rfl⟩

theorem witness_ResetClearsOnlyTheReader :
    configLegal State.reset.cfg = true ∧ State.reset.rs = .start ∧ readerInv State.reset = true ∧
    (completed 0 0x04#8 0x00#8 0x04#8).rs = .done := by decide

/-- The four checks: a good frame, a bad checksum, the first illegal type; and, in states no run reaches, a wrong length and
a wrong identifier. -/
theorem witness_GetDataChecksTheFrame :
    let s := completed 0 0x04#8 0x01#8 0x05#8
    configLegal s.cfg = true ∧ s.rs = .done ∧ Memory.read s.rxb 0 = some 0x04#8 ∧ Memory.read s.rxb 1 = some 0x01#8 ∧
    Memory.read s.rxb 2 = some 0x05#8 ∧ readerInv s = true ∧
    resultAfter (exec .getData (completed 0 0x04#8 0x02#8 0x06#8)) = some (.data false .unknown) ∧
    resultAfter (exec .getData { s with wpos := 2 }) = some (.data false .unknown) ∧
    resultAfter (exec .getData (completed 0 0x05#8 0x01#8 0x04#8)) = some (.data false .unknown) := by decide

theorem witness_GetDataWritesNoState :
    (∃ t, exec .getData State.reset = .next t) ∧ State.reset.rs ≠ .done ∧ configLegal State.reset.cfg = true ∧
    ∃ t, exec .getData (completed 0 0x04#8 0x00#8 0x04#8) = .next t :=
  ⟨⟨_, rfl⟩, by decide, by decide, _, rfl⟩

theorem witness_NextByteLosesThePendingRequest :
    configLegal State.reset.cfg = true ∧ (completed 0 0x04#8 0x00#8 0x04#8).rs = .done := by decide

/-- The last two bytes at elapsed 99, across the wrap; also for the two polls. -/
theorem witness_TemperatureRequestArrives :
    configLegal State.reset.cfg = true ∧ beginsMessage 0xFFFFFFF0 State.reset = true ∧
    ((83 : Int) - 0xFFFFFFF0) % 2 ^ State.reset.cfg.clockW < State.reset.cfg.rxTimeout ∧
    ((0xFFFFFFFF : Int) - 0xFFFFFFF0) % 2 ^ State.reset.cfg.clockW < State.reset.cfg.rxTimeout := by decide

theorem witness_SystemStatusRequestArrives :
    configLegal tight = true ∧ beginsMessage 0 (State.powerOn tight) = true ∧
    ((0 : Int) - 0) % 2 ^ tight.clockW < tight.rxTimeout := by decide

/-- Two and three agreeing sensors (V-VO-16, V-VO-12). -/
theorem witness_VoteAverageTruncatesTowardZero :
    (voteAfter (exec (.vote (valid 2400) (valid 2450) (invalid 0)) (withTol 50))).map
      (fun v => (countFlags v.agree0 v.agree1 v.agree2, v.avg)) = some (2, 2425#16) ∧
    (voteAfter (exec (.vote (valid (-1)) (valid (-1)) (valid (-2))) (withTol 1))).map
      (fun v => (countFlags v.agree0 v.agree1 v.agree2, v.avg)) = some (3, 0xFFFF#16) := by decide

/-- One, two and three valid sensors; two agreeing and none (V-VO-4, V-VO-17, V-VO-2). -/
theorem witness_VoteStatusByCounts :
    (voteAfter (exec (.vote (valid 2400) (invalid 2401) (invalid 0)) (withTol 50))).map VoteResult.status =
      some 1#8 ∧
    (voteAfter (exec (.vote (valid 2400) (valid 2451) (invalid 0)) (withTol 50))).map VoteResult.status = some 2#8 ∧
    (voteAfter (exec (.vote (valid 2400) (valid 2450) (invalid 0)) (withTol 50))).map VoteResult.status = some 0#8 := by
  decide

/-- A partner decides, either one; an invalid partner does not (V-VO-13). -/
theorem witness_VoteAgreementIsWithinToleranceOfAValidPartner :
    configLegal (withTol 0).cfg = true ∧
    (voteAfter (exec (.vote (valid 5) (invalid 5) (valid 5)) (withTol 0))).map
      (fun v => (v.agree0, v.agree1, v.agree2)) = some (true, false, true) ∧
    (voteAfter (exec (.vote (valid 5) (valid 5) (valid 6)) (withTol 0))).map
      (fun v => (v.agree0, v.agree1, v.agree2)) = some (true, true, false) := by decide

theorem witness_VoteResultMeetsItsInvariants :
    ∃ t v, exec (.vote (valid (-5)) (valid 4) (invalid 9)) (withTol 10) = .next t ∧ t.vr = some v ∧ v.status = 0#8 ∧
      v.agree0 = true ∧ v.agree2 = false := ⟨_, _, rfl, rfl, rfl, rfl, rfl⟩

/-- V-VO-11, V-VO-10, V-VO-9: tolerance -1, 0 and 65535, each with two or more valid sensors. -/
theorem witness_VoteAtExtremeTolerances :
    configLegal (withTol (-1)).cfg = true ∧ 2 ≤ true.toNat + true.toNat + true.toNat ∧
    (withTol (-1)).cfg.tol < 0 ∧
    (voteAfter (exec (.vote (valid 100) (valid 100) (valid 100)) (withTol (-1)))).map VoteResult.status = some 2#8 ∧
    (voteAfter (exec (.vote (valid (-32768)) (valid (-32768)) (valid (-32767))) (withTol 0))).map
      (fun v => (v.agree0, v.agree1, v.agree2)) = some (true, true, false) ∧
    (voteAfter (exec (.vote (valid (-32768)) (valid 32767) (valid 0)) (withTol 65535))).map VoteResult.status =
      some 0#8 := by decide

theorem witness_EncodedMessagesMeetTheChecksumLaw :
    (ownsBuffer (.encSys 0#8 true true true) = true ∧ ∃ t, exec (.encSys 0#8 true true true) State.reset = .next t) ∧
    (ownsBuffer (.rspError 0#8 0#8) = true ∧ ∃ t, exec (.rspError 0#8 0#8) State.reset = .next t) ∧
    (ownsBuffer (.encTemp 0#8 true true true 0#16 0#16 0#16 0#16) = true ∧
      ∃ t, exec (.encTemp 0#8 true true true 0#16 0#16 0#16 0#16) State.reset = .next t) :=
  ⟨⟨rfl, _, rfl⟩, ⟨rfl, _, rfl⟩, rfl, _, rfl⟩

/-- V-EN-6: the extremes of int16. -/
theorem witness_TemperatureFieldsReadBack :
    ∃ t, exec (.encTemp 0#8 true true false 0x8000#16 0x8000#16 0x8001#16 0x7FFF#16) State.reset = .next t ∧
      Memory.read t.mb 9 = some 0xFF#8 ∧ Memory.read t.mb 10 = some 0x7F#8 := ⟨_, rfl, rfl, rfl⟩

/-- Two states that differ. -/
theorem witness_EncodersReadNoState :
    ownsBuffer (.encErr 1#8) = true ∧ configLegal (State.powerOn tight).cfg = true ∧
    (∃ t, exec (.encErr 1#8) (completed 0 0x04#8 0x00#8 0x04#8) = .next t) ∧
    completed 0 0x04#8 0x00#8 0x04#8 ≠ State.powerOn tight := ⟨rfl, by decide, ⟨_, rfl⟩, by decide⟩

/-- Each clause: a message in the buffer, none, and `SEND` after `RESET` (V-EN-17). -/
theorem witness_SendAppendsTheMessage :
    configLegal encoded.cfg = true ∧ encoded.msize = some .three ∧
    Memory.readList encoded.mb 0 (sizeBytes .three) = some [0x03#8, 0x01#8, 0x02#8] ∧ State.reset.msize = none ∧
    bufferedMessage encoded = some [0x03#8, 0x01#8, 0x02#8] ∧
    ∃ t u, exec .reset encoded = .next t ∧ exec .send t = .next u :=
  ⟨by decide, rfl, rfl, rfl, rfl, _, _, rfl, rfl⟩

theorem witness_SendTwiceAppendsTwiceEncodeTwiceIsOnce :
    configLegal encoded.cfg = true ∧ bufferedMessage encoded = some [0x03#8, 0x01#8, 0x02#8] ∧
    ∃ t u, exec (.encErr 1#8) State.reset = .next t ∧ exec (.encErr 1#8) t = .next u :=
  ⟨by decide, rfl, _, _, rfl, rfl⟩

theorem witness_LawfulResponseIsSentAsPresented :
    configLegal State.reset.cfg = true ∧ (Instr.rspError 0x02#8 0x01#8).lawful = true ∧
    encode State.reset.cfg.clockW (.rspError 0x02#8 0x01#8) = .response [0x03#8, 0x02#8, 0x01#8] := by decide

/-- The host's inputs of 95_test_vectors.md P1, and those of P4. -/
def poll (sysFail : Bool) : RespondInputs :=
  { sysFail := sysFail, r0 := valid 2400, r1 := valid 2425, r2 := valid 2420, ss := 0#8, g0 := true, g1 := true,
    g2 := true }

theorem witness_RespondReportsSystemFailureFirst :
    configLegal State.reset.cfg = true ∧ (poll true).sysFail = true := by decide

/-- A bad checksum (P3), and the first illegal request type. -/
theorem witness_RespondReportsBadRequest :
    configLegal State.reset.cfg = true ∧ (poll false).sysFail = false ∧
    ((completed 0 0x04#8 0x00#8 0x05#8).rs = .done ∧
      Memory.readList (completed 0 0x04#8 0x00#8 0x05#8).rxb 0 3 = some [0x04#8, 0x00#8, 0x05#8] ∧
      0x04#8 ^^^ 0x00#8 ≠ 0x05#8) ∧
    ((completed 0 0x04#8 0x02#8 0x06#8).rs = .done ∧
      Memory.readList (completed 0 0x04#8 0x02#8 0x06#8).rxb 0 3 = some [0x04#8, 0x02#8, 0x06#8] ∧
      2 ≤ (0x02#8).toNat) := by decide

/-- P1: its clock readings, and the message it leaves. -/
theorem witness_TemperaturePollIsAnswered :
    beginsMessage 1000 State.reset = true ∧
    ((1003 : Int) - 1000) % 2 ^ State.reset.cfg.clockW < State.reset.cfg.rxTimeout ∧
    ((1005 : Int) - 1000) % 2 ^ State.reset.cfg.clockW < State.reset.cfg.rxTimeout ∧
    (nextState (respond (poll false) (completed 1000 0x04#8 0x00#8 0x04#8))).map State.tx =
      some [0x01#8, 0x00#8, 0x60#8, 0x09#8, 0x79#8, 0x09#8, 0x74#8, 0x09#8, 0x07#8, 0x6F#8, 0x09#8, 0x04#8] := by
  decide

/-- P2: its clock readings (a message in progress timed out), and the message it leaves. -/
theorem witness_SystemStatusPollIsAnswered :
    beginsMessage 2150 (collecting 2001 [0x04#8, 0x01#8]) = true ∧
    ((2151 : Int) - 2150) % 2 ^ State.reset.cfg.clockW < State.reset.cfg.rxTimeout ∧
    ((2152 : Int) - 2150) % 2 ^ State.reset.cfg.clockW < State.reset.cfg.rxTimeout ∧
    (nextState (respond (poll false) (completed 2150 0x04#8 0x01#8 0x05#8))).map State.tx =
      some [0x02#8, 0x00#8, 0x07#8, 0x05#8] := by decide

/-- `Disagree` with an average of 0, and `OK` with another, both reach the wire, with an invalid sensor shown as 0 (V-VO-17,
V-VO-16). -/
theorem witness_VoteInvariantsReachTheWire :
    (∃ t u, exec (.vote (valid 2400) (valid 2451) (invalid 9)) (withTol 50) = .next t ∧ (∃ i, encTempVR t = some i ∧ exec i t = .next u) ∧
      Memory.readList u.mb 1 10 =
        some [0x02#8, 0x60#8, 0x09#8, 0x93#8, 0x09#8, 0x00#8, 0x00#8, 0x00#8, 0x00#8, 0x00#8]) ∧
    (∃ t u, exec (.vote (valid 2400) (valid 2450) (invalid 9)) (withTol 50) = .next t ∧ (∃ i, encTempVR t = some i ∧ exec i t = .next u) ∧
      Memory.readList u.mb 1 10 =
        some [0x00#8, 0x60#8, 0x09#8, 0x92#8, 0x09#8, 0x00#8, 0x00#8, 0x03#8, 0x79#8, 0x09#8]) ∧
    configLegal (withTol 50).cfg = true :=
  ⟨⟨_, _, rfl, ⟨_, rfl, rfl⟩, rfl⟩, ⟨_, _, rfl, ⟨_, rfl, rfl⟩, rfl⟩, by decide⟩

/-- A non-zero average and a cleared flag beside `Disagree`; the sentinel is the last status sent as it is. -/
theorem witness_EncTempEnforcesNoInvariant :
    configLegal State.reset.cfg = true ∧ (2#8).toNat ≤ 3 ∧ (3#8).toNat ≤ 3 ∧
    ∃ t, exec (.encTemp 2#8 false false false 5#16 5#16 5#16 7#16) State.reset = .next t ∧
      Memory.readList t.mb 1 10 =
        some [0x02#8, 0x05#8, 0x00#8, 0x05#8, 0x00#8, 0x05#8, 0x00#8, 0x00#8, 0x07#8, 0x00#8] :=
  ⟨by decide, by decide, by decide, _, rfl, rfl⟩

/-- `ENC_TEMP VR` before any `VOTE` expands to nothing (10_state.md R29, R37; log 16). -/
theorem test_enc_temp_vr_unwritten : encTempVR State.reset = none := by decide

end Sys2Proof.Tests
end

/-! ## Scope: what an operation can do, and what follows for every run

An operation that answers a next state is a sequence of elementary effects (`exec_effects`). The configuration (00_scope.md
R5, R7) and the invariant `MachineInv` are kept by each effect and so by every operation and run. -/

namespace Sys2Proof.Machine

/-! ### The effects of an operation -/

/-- An elementary change of the state by an operation. -/
inductive Effect (s : State) : State → Prop
  /-- A byte that begins a message or is stray (40_request_reader.md R102). -/
  | begins (b : Byte) (now : Nat) (hc : configLegal s.cfg = true) (hb : beginsMessage now s = true) :
      Effect s (firstByte b now (toStart s))
  /-- A later byte in time (R103, R104). -/
  | appended (b : Byte) (now : Nat) (hc : configLegal s.cfg = true) (ht : inTime now s = true) : Effect s (appendByte b s)
  /-- `RESET` (R110). -/
  | cleared : Effect s (clearReader s)
  /-- A result is returned (43_dispatch.md R207). -/
  | replied (r : OpResult) : Effect s (reply r s)
  /-- `VR` is written (41_consensus.md R140). -/
  | voted (r0 r1 r2 : Reading) : Effect s (setVR (voteResult s.cfg.tol r0 r1 r2) s)
  /-- A message is encoded (42_response_encoder.md R176). -/
  | loaded (size : MsgSize) (bytes : List Byte) (hl : bytes.length = sizeBytes size) (hm : emittable bytes = true) :
      Effect s (loadMessage size bytes s)
  /-- The encoded message is sent (R174). -/
  | sent (bytes : List Byte) (hb : bufferedMessage s = some bytes) : Effect s (transmit bytes s)

/-- One state leads to another by effects, one after another. -/
abbrev Effects : State → State → Prop := Relation.ReflTransGen Effect

theorem execProcess_effects {b : Byte} {now : Nat} {s t : State} (h : execProcess b now s = .next t) : Effects s t := by
  obtain ⟨hc, ⟨hb, rfl⟩ | ⟨ht, rfl⟩⟩ := execProcess_eq_next h
  · exact .single (.begins b now hc hb)
  · exact .single (.appended b now hc ht)

theorem pushThree_effects {b0 b1 b2 : Byte} {n0 n1 n2 : Nat} {s t : State} (h : pushThree b0 b1 b2 n0 n1 n2 s = .next t) :
    Effects s t := by
  obtain ⟨s1, h0, h⟩ := andThen_eq_next.1 h
  obtain ⟨s2, h1, h2⟩ := andThen_eq_next.1 h
  exact (execProcess_effects h0).trans ((execProcess_effects h1).trans (execProcess_effects h2))

theorem execGetData_effects {s t : State} (h : execGetData s = .next t) : Effects s t := by
  obtain ⟨-, ⟨-, rfl⟩ | ⟨b0, b1, b2, -, -, -, -, rfl⟩⟩ := execGetData_eq_next h
  · exact .single (.replied _)
  · exact .single (.replied _)

theorem execVote_effects {r0 r1 r2 : Reading} {s t : State} (h : execVote r0 r1 r2 s = .next t) : Effects s t := by
  obtain ⟨-, rfl⟩ := execVote_eq_next h
  exact (Relation.ReflTransGen.single (.voted r0 r1 r2)).tail (.replied _)

theorem encode_effects {size : MsgSize} {bytes : List Byte} {s t : State} (hl : bytes.length = sizeBytes size)
    (hm : emittable bytes = true) (h : guardConfig s (.next (loadMessage size bytes s)) = .next t) : Effects s t := by
  obtain ⟨-, ⟨⟩⟩ := guardConfig_eq_next.1 h
  exact .single (.loaded size bytes hl hm)

theorem execSend_effects {s t : State} (h : execSend s = .next t) : Effects s t := by
  obtain ⟨-, bytes, hb, rfl⟩ := execSend_eq_next h
  exact .single (.sent bytes hb)

/-- A response row encodes its message and sends it (log 10). -/
theorem encode_then_send_effects {size : MsgSize} {bytes : List Byte} {s t : State} (hl : bytes.length = sizeBytes size)
    (hm : emittable bytes = true)
    (h : andThen (guardConfig s (.next (loadMessage size bytes s))) execSend = .next t) : Effects s t := by
  obtain ⟨u, hu, ht⟩ := andThen_eq_next.1 h
  exact (encode_effects hl hm hu).trans (execSend_effects ht)

/-- Everything an operation can do when it answers a next state. -/
theorem exec_effects {i : Instr} {s t : State} (h : exec i s = .next t) : Effects s t := by
  cases i with
  | process b now => exact execProcess_effects h
  | reset =>
    obtain ⟨-, ⟨⟩⟩ := guardConfig_eq_next.1 h
    exact .single .cleared
  | getData => exact execGetData_effects h
  | vote r0 r1 r2 => exact execVote_effects h
  | encTemp st a0 a1 a2 p0 p1 p2 avg => exact encode_effects rfl (emittable_temperatureMessage ..) h
  | encSys ss g0 g1 g2 => exact encode_effects rfl (emittable_systemStatusMessage ..) h
  | encErr ec => exact encode_effects rfl (emittable_errorMessage ..) h
  | send => exact execSend_effects h
  | reqTemperature n0 n1 n2 => exact pushThree_effects h
  | reqSystemStatus n0 n1 n2 => exact pushThree_effects h
  | rspTemperature st p0 p1 p2 a0 a1 a2 avg k =>
    exact encode_then_send_effects rfl (emittable_temperatureMessage ..) h
  | rspSystemStatus ss g0 g1 g2 k => exact encode_then_send_effects rfl (emittable_systemStatusMessage ..) h
  | rspError ec k => exact encode_then_send_effects rfl (emittable_errorMessage ..) h

/-- Everything a sequence of operations can do when it answers a next state. -/
theorem runOps_effects {ops : List Instr} {s t : State} (h : runOps ops s = .next t) : Effects s t :=
  runOps_induct (R := Effects) (fun _ => .refl) (fun _ _ _ => .trans) (fun _ _ _ => exec_effects) h

/-! ### The configuration is kept (00_scope.md R5, R7) -/

@[simp] theorem appendByte_cfg (b : Byte) (s : State) : (appendByte b s).cfg = s.cfg := by
  unfold appendByte
  split_ifs <;> rfl

@[simp] theorem firstByte_cfg (b : Byte) (now : Nat) (s : State) : (firstByte b now s).cfg = s.cfg := by
  unfold firstByte
  split_ifs <;> simp

theorem Effect.cfg_eq {s t : State} (h : Effect s t) : t.cfg = s.cfg := by
  cases h <;> simp

theorem Effects.cfg_eq {s t : State} (h : Effects s t) : t.cfg = s.cfg := by
  induction h with
  | refl => rfl
  | tail _ he ih => exact he.cfg_eq.trans ih

/-- Settles O9: a step is nothing or a sequence of operations, and every effect of an operation keeps the configuration. -/
theorem configurationNeverChanges : Obligations.ConfigurationNeverChanges := by
  intro s t h
  obtain rfl | ⟨ops, rest, hrun⟩ := step_eq_next h
  · rfl
  · exact (runOps_effects hrun).cfg_eq

/-! ### The invariant is kept (10_state.md R36, R37; 42_response_encoder.md R176; 41_consensus.md R147) -/

/-- `MB` holds a message the block emits, or none was encoded yet. -/
theorem messageInv_iff (s : State) :
    messageInv s = true ↔ s.msize = none ∨ ∃ bytes, bufferedMessage s = some bytes ∧ emittable bytes = true := by
  unfold messageInv bufferedMessage
  cases s.msize with
  | none => simp
  | some size => cases hb : Memory.readList s.mb 0 (sizeBytes size) <;> simp [hb]

theorem voteInv_setVR (tol : Int) (r0 r1 r2 : Reading) (s : State) :
    voteInv (setVR (voteResult tol r0 r1 r2) s) = true := by
  simp only [voteInv, setVR_vr, decide_eq_true_iff]
  obtain ⟨-, hn, hst, havg⟩ | ⟨-, hn, hst, -⟩ | ⟨-, hn, hst, havg⟩ := voteResult_status_avg tol r0 r1 r2
  · exact .inr ⟨.inl hst, hn, havg⟩
  · exact .inl ⟨hst, hn⟩
  · have hone := countFlags_agree_ne_one tol r0 r1 r2
    rw [← voteResult_agree0, ← voteResult_agree1, ← voteResult_agree2] at hone
    exact .inr ⟨.inr hst, by omega, havg⟩

/-- In `COLLECT` one or two bytes are collected, and `T0` is written. -/
theorem readerInv_collect {s : State} (h : readerInv s = true) (hrs : s.rs = .collect) :
    (s.wpos = 1 ∨ s.wpos = 2) ∧ Memory.read s.rxb 0 = some requestTag ∧ s.t0.isSome = true := by
  simpa [readerInv, hrs] using h

/-- In `DONE` three bytes are collected. -/
theorem readerInv_done {s : State} (h : readerInv s = true) (hrs : s.rs = .done) :
    s.wpos = 3 ∧ Memory.read s.rxb 0 = some requestTag := by
  simpa [readerInv, hrs] using h

/-- A byte stored at `WPOS` extends the bytes collected. -/
theorem isSome_readList_write {m : Memory} {n : Nat} (b : Byte) (h : (Memory.readList m 0 n).isSome = true) :
    (Memory.readList (Memory.write m n b) 0 (n + 1)).isSome = true := by
  refine Memory.isSome_readList.2 fun k hk => ?_
  by_cases hkn : 0 + k = n
  · simp [hkn]
  · rw [Memory.read_write_other _ _ hkn]
    exact Memory.isSome_readList.1 h k (by omega)

theorem machineInv_firstByte {s : State} (b : Byte) (now : Nat) (hc : configLegal s.cfg = true) (h : MachineInv s) :
    MachineInv (firstByte b now (toStart s)) := by
  obtain ⟨-, -, -, ⟨hrxb, hmb⟩, hmsg, hvote⟩ := h
  obtain ⟨hcap, -, -⟩ := (configLegal_iff _).1 hc
  have hclock : now % 2 ^ s.cfg.clockW < 2 ^ s.cfg.clockW := Nat.mod_lt _ (by positivity)
  rw [firstByte_eq (s := toStart s) hcap]
  split
  case isTrue hb =>
    exact ⟨by simp [readerInv], isSome_readList_write (n := 0) _ rfl, decide_eq_true hclock,
      ⟨Memory.wf_write _ hrxb (show 0 < s.cfg.rxCapacity by omega), hmb⟩, hmsg, hvote⟩
  case isFalse hb =>
    exact ⟨by simp [readerInv], rfl, decide_eq_true hclock, ⟨hrxb, hmb⟩, hmsg, hvote⟩

theorem machineInv_appendByte {s : State} (b : Byte) (hc : configLegal s.cfg = true) (hrs : s.rs = .collect)
    (h : MachineInv s) : MachineInv (appendByte b s) := by
  obtain ⟨hreader, hcoll, hclock, ⟨hrxb, hmb⟩, hmsg, hvote⟩ := h
  obtain ⟨hcap, -, -⟩ := (configLegal_iff _).1 hc
  obtain ⟨hw, htag, ht0⟩ := readerInv_collect hreader hrs
  have hroom : s.wpos < s.cfg.rxCapacity := by omega
  have htag' : Memory.read (Memory.write s.rxb s.wpos b) 0 = some requestTag := by
    rw [Memory.read_write_other _ _ (by omega), htag]
  rw [appendByte_of_lt hroom]
  refine ⟨?_, isSome_readList_write b hcoll, hclock, ⟨Memory.wf_write _ hrxb hroom, hmb⟩, hmsg, hvote⟩
  rcases hw with hw | hw <;> simpa [readerInv, hw, hrs, ht0] using htag'

theorem machineInv_loadMessage {s : State} {size : MsgSize} {bytes : List Byte} (hl : bytes.length = sizeBytes size)
    (hm : emittable bytes = true) (h : MachineInv s) : MachineInv (loadMessage size bytes s) := by
  obtain ⟨hreader, hcoll, hclock, ⟨hrxb, hmb⟩, -, hvote⟩ := h
  have hsize : 0 + bytes.length ≤ mbSize := by rw [hl]; cases size <;> decide
  exact ⟨hreader, hcoll, hclock, ⟨hrxb, Memory.wf_writeList hmb hsize⟩,
    (messageInv_iff _).2 (.inr ⟨bytes, bufferedMessage_loadMessage hl s, hm⟩), hvote⟩

theorem Effect.machineInv {s t : State} (he : Effect s t) (h : MachineInv s) : MachineInv t := by
  cases he with
  | begins b now hc hb => exact machineInv_firstByte b now hc h
  | appended b now hc ht => exact machineInv_appendByte b hc (rs_of_inTime ht) h
  | cleared =>
    obtain ⟨-, -, hclock, hstores, hmsg, hvote⟩ := h
    exact ⟨rfl, rfl, hclock, hstores, hmsg, hvote⟩
  | replied r => exact h
  | voted r0 r1 r2 =>
    obtain ⟨hreader, hcoll, hclock, hstores, hmsg, -⟩ := h
    exact ⟨hreader, hcoll, hclock, hstores, hmsg, voteInv_setVR ..⟩
  | loaded size bytes hl hm => exact machineInv_loadMessage hl hm h
  | sent bytes hb => exact h

theorem Effects.machineInv {s t : State} (he : Effects s t) (h : MachineInv s) : MachineInv t := by
  induction he with
  | refl => exact h
  | tail _ he ih => exact he.machineInv ih

theorem machineInv_powerOn (c : Config) : MachineInv (State.powerOn c) :=
  ⟨rfl, rfl, rfl, ⟨Memory.wf_nil _, Memory.wf_nil _⟩, rfl, rfl⟩

/-- What is presented, when it completes, is a sequence of effects. -/
theorem applyInput_effects {h : HostInput} {s t : State} (ha : applyInput h s = .next t) : Effects s t := by
  rw [applyInput_eq] at ha
  split at ha
  · exact exec_effects ha
  · cases ha
  · exact runOps_effects ha
  · cases ha

/-! ### Every operation completes but for `SEND` before any encode (00_scope.md R12, 60_exceptions.md R222) -/

/-- A sequence faults exactly if one of its parts does. -/
theorem andThen_eq_fault {o : Out} {k : State → Out} {f : Fault} :
    andThen o k = .fault f ↔ o = .fault f ∨ ∃ s, o = .next s ∧ k s = .fault f := by
  cases o <;> simp

/-- Under an illegal configuration every operation is refused (60_exceptions.md R222). -/
theorem exec_of_illegal (i : Instr) {s : State} (hc : configLegal s.cfg = false) : exec i s = .refused .badConfig := by
  have hg := guardConfig_of_illegal hc
  have hseq (o : Out) (k : State → Out) : andThen (guardConfig s o) k = .refused .badConfig := by rw [hg, andThen_refused]
  cases i with
  | process b now => exact hg _
  | reset => exact hg _
  | getData => exact hg _
  | vote r0 r1 r2 => exact hg _
  | encTemp st a0 a1 a2 p0 p1 p2 avg => exact hg _
  | encSys ss g0 g1 g2 => exact hg _
  | encErr ec => exact hg _
  | send => exact hg _
  | reqTemperature n0 n1 n2 => exact hseq _ _
  | reqSystemStatus n0 n1 n2 => exact hseq _ _
  | rspTemperature st p0 p1 p2 a0 a1 a2 avg k => exact hseq _ _
  | rspSystemStatus ss g0 g1 g2 k => exact hseq _ _
  | rspError ec k => exact hseq _ _

/-- Under the invariant a byte is in time or begins a message: `T0` is written in `COLLECT` (10_state.md R23). -/
theorem inTime_or_begins_of_inv (now : Nat) {s : State} (h : MachineInv s) :
    inTime now s = true ∨ beginsMessage now s = true :=
  inTime_or_begins fun hrs => (readerInv_collect h.1 hrs).2.2

/-- Under the invariant the frame is written in `DONE` (10_state.md R24). -/
theorem frame_written {s : State} (h : MachineInv s) (hrs : s.rs = .done) :
    ∃ b0 b1 b2, Memory.read s.rxb 0 = some b0 ∧ Memory.read s.rxb 1 = some b1 ∧ Memory.read s.rxb 2 = some b2 := by
  obtain ⟨hreader, hcoll, -⟩ := h
  obtain ⟨hw, -⟩ := readerInv_done hreader hrs
  have hbyte (k : Nat) (hk : k < 3) : ∃ b, Memory.read s.rxb k = some b := by
    have := Memory.isSome_readList.1 hcoll k (by omega)
    simpa [Option.isSome_iff_exists] using this
  obtain ⟨b0, h0⟩ := hbyte 0 (by omega)
  obtain ⟨b1, h1⟩ := hbyte 1 (by omega)
  obtain ⟨b2, h2⟩ := hbyte 2 (by omega)
  exact ⟨b0, b1, b2, h0, h1, h2⟩

/-- Under the invariant a message is buffered once `MSIZE` is written (42_response_encoder.md R176). -/
theorem message_buffered {s : State} (h : MachineInv s) (hm : s.msize ≠ none) : ∃ bytes, bufferedMessage s = some bytes := by
  obtain ⟨-, -, -, -, hmsg, -⟩ := h
  obtain hnone | ⟨bytes, hb, -⟩ := (messageInv_iff s).1 hmsg
  · exact absurd hnone hm
  · exact ⟨bytes, hb⟩

section Completion

variable {s : State} (hi : MachineInv s) (hc : configLegal s.cfg = true)
include hi hc

theorem execProcess_completes (b : Byte) (now : Nat) : ∃ t, execProcess b now s = .next t := by
  rcases inTime_or_begins_of_inv now hi with ht | hb
  · exact ⟨_, execProcess_of_inTime hc ht⟩
  · exact ⟨_, execProcess_of_begins hc hb⟩

theorem execGetData_completes : ∃ t, execGetData s = .next t := by
  by_cases hrs : s.rs = .done
  · obtain ⟨b0, b1, b2, h0, h1, h2⟩ := frame_written hi hrs
    exact ⟨_, execGetData_of_done hc hrs h0 h1 h2⟩
  · exact ⟨_, execGetData_of_not_done hc hrs⟩

theorem execSend_completes (hm : s.msize ≠ none) : ∃ t, execSend s = .next t := by
  obtain ⟨bytes, hb⟩ := message_buffered hi hm
  exact ⟨_, execSend_of_buffered hc hb⟩

end Completion

theorem pushThree_completes {s : State} (hi : MachineInv s) (hc : configLegal s.cfg = true) (b0 b1 b2 : Byte)
    (n0 n1 n2 : Nat) : ∃ t, pushThree b0 b1 b2 n0 n1 n2 s = .next t := by
  obtain ⟨s1, h0⟩ := execProcess_completes hi hc b0 n0
  have he0 := execProcess_effects h0
  have hc1 : configLegal s1.cfg = true := by rwa [he0.cfg_eq]
  obtain ⟨s2, h1⟩ := execProcess_completes (he0.machineInv hi) hc1 b1 n1
  have he1 := execProcess_effects h1
  have hc2 : configLegal s2.cfg = true := by rwa [he1.cfg_eq]
  obtain ⟨t, h2⟩ := execProcess_completes (he1.machineInv (he0.machineInv hi)) hc2 b2 n2
  exact ⟨t, andThen_eq_next.2 ⟨s1, h0, andThen_eq_next.2 ⟨s2, h1, h2⟩⟩⟩

theorem exec_completes {s : State} (hi : MachineInv s) (hc : configLegal s.cfg = true) (i : Instr)
    (hne : ¬(i = .send ∧ s.msize = none)) : ∃ t, exec i s = .next t := by
  cases i with
  | process b now => exact execProcess_completes hi hc b now
  | reset => exact ⟨_, guardConfig_of_legal hc _⟩
  | getData => exact execGetData_completes hi hc
  | vote r0 r1 r2 => exact ⟨_, guardConfig_of_legal hc _⟩
  | encTemp st a0 a1 a2 p0 p1 p2 avg => exact ⟨_, guardConfig_of_legal hc _⟩
  | encSys ss g0 g1 g2 => exact ⟨_, guardConfig_of_legal hc _⟩
  | encErr ec => exact ⟨_, guardConfig_of_legal hc _⟩
  | send => exact execSend_completes hi hc fun hm => hne ⟨rfl, hm⟩
  | reqTemperature n0 n1 n2 => exact pushThree_completes hi hc ..
  | reqSystemStatus n0 n1 n2 => exact pushThree_completes hi hc ..
  | rspTemperature st p0 p1 p2 a0 a1 a2 avg k => exact ⟨_, execRspTemperature_eq hc (k := k) ..⟩
  | rspSystemStatus ss g0 g1 g2 k => exact ⟨_, execRspSystemStatus_eq hc (k := k) ..⟩
  | rspError ec k => exact ⟨_, execRspError_eq hc (k := k) ..⟩

/-- Under the invariant the only fault of an operation is `SendUnwritten`, whatever the configuration. -/
theorem exec_fault_eq {i : Instr} {s : State} {f : Fault} (hi : MachineInv s) (h : exec i s = .fault f) :
    f = .sendUnwritten := by
  cases hc : configLegal s.cfg with
  | false => simp [exec_of_illegal i hc] at h
  | true =>
    by_cases hsend : i = .send ∧ s.msize = none
    · obtain ⟨rfl, hm⟩ := hsend
      exact (Host.Outcome.fault.inj ((execSend_of_unwritten hc hm).symm.trans h)).symm
    · obtain ⟨t, ht⟩ := exec_completes hi hc i hsend
      simp [ht] at h

theorem runOps_fault_eq {ops : List Instr} {s : State} {f : Fault} (hi : MachineInv s) (h : runOps ops s = .fault f) :
    f = .sendUnwritten := by
  induction ops generalizing s with
  | nil => cases h
  | cons i ops ih =>
    obtain hf | ⟨t, ht, hf⟩ := andThen_eq_fault.1 h
    · exact exec_fault_eq hi hf
    · exact ih ((exec_effects ht).machineInv hi) hf

theorem applyInput_fault_eq {h : HostInput} {s : State} {f : Fault} (hi : MachineInv s) (ha : applyInput h s = .fault f) :
    f = .sendUnwritten := by
  rw [applyInput_eq] at ha
  split at ha
  · exact exec_fault_eq hi ha
  · cases ha
  · exact runOps_fault_eq hi ha
  · cases ha

theorem observe_fault_eq {inputs : List HostInput} {s : State} {f : Fault} (hi : MachineInv s)
    (h : (observe inputs s).ending = .faulted f) : f = .sendUnwritten := by
  induction inputs generalizing s with
  | nil => cases h
  | cons input inputs ih =>
    cases ha : applyInput input s with
    | next t =>
      rw [observe_cons_of_next ha] at h
      exact ih ((applyInput_effects ha).machineInv hi) h
    | fault g =>
      rw [observe_cons_of_fault ha] at h
      cases h
      exact applyInput_fault_eq hi ha
    | refused r =>
      rw [observe_cons_of_refused ha] at h
      cases h

/-- Settles O10: under the invariant every element an operation reads is written, but for `MSIZE`; and the invariant holds along
every run from power-on. -/
theorem everyOperationCompletesOrIsSendUnwritten : Obligations.EveryOperationCompletesOrIsSendUnwritten := by
  refine ⟨fun i s hi hc => ⟨exec_completes hi hc i, ?_⟩, fun c inputs f h => observe_fault_eq (machineInv_powerOn c) h⟩
  rintro ⟨rfl, hm⟩
  exact execSend_of_unwritten hc hm

/-! ### The capacity never shows (00_scope.md R7, 10_state.md R36) -/

/-- The same state under another `RX_CAPACITY`. -/
def withCapacity (capacity : Nat) (s : State) : State := { s with cfg := { s.cfg with rxCapacity := capacity } }

/-- Change the next state of an outcome; a fault or a refusal stays. -/
def mapNext (w : State → State) (o : Out) : Out := andThen o fun s => .next (w s)

@[simp] theorem mapNext_next (w : State → State) (s : State) : mapNext w (.next s) = .next (w s) := rfl
@[simp] theorem mapNext_fault (w : State → State) (f : Fault) : mapNext w (.fault f) = .fault f := rfl
@[simp] theorem mapNext_refused (w : State → State) (r : Refusal) : mapNext w (.refused r) = .refused r := rfl

/-- How it is shown that a change of state commutes with an operation that completes. -/
theorem mapNext_of_next {w : State → State} {o o' : Out} {t : State} (h : o = .next t) (h' : o' = .next (w t)) :
    o' = mapNext w o := by
  rw [h, h', mapNext_next]

/-- A change of state commutes with a sequence if it commutes with both its parts. -/
theorem andThen_mapNext {w : State → State} {o : Out} {k : State → Out}
    (hk : ∀ t, o = .next t → k (w t) = mapNext w (k t)) : andThen (mapNext w o) k = mapNext w (andThen o k) := by
  cases o with
  | next t => exact hk t rfl
  | fault f => rfl
  | refused r => rfl

theorem configLegal_withCapacity {s : State} {capacity : Nat} (hc : configLegal s.cfg = true) (hcap : 3 ≤ capacity) :
    configLegal (withCapacity capacity s).cfg = true := by
  obtain ⟨-, hrest⟩ := (configLegal_iff _).1 hc
  exact (configLegal_iff _).2 ⟨hcap, hrest⟩

theorem firstByte_withCapacity {s : State} {capacity : Nat} (hc : configLegal s.cfg = true) (hcap : 3 ≤ capacity)
    (b : Byte) (now : Nat) :
    firstByte b now (toStart (withCapacity capacity s)) = withCapacity capacity (firstByte b now (toStart s)) := by
  obtain ⟨hroom, -, -⟩ := (configLegal_iff _).1 hc
  rw [firstByte_eq (s := toStart s) hroom, firstByte_eq (s := toStart (withCapacity capacity s)) hcap]
  split_ifs <;> rfl

section Capacity

variable {s : State} {capacity : Nat} (hi : MachineInv s) (hc : configLegal s.cfg = true) (hcap : 3 ≤ capacity)
include hi hc hcap

/-- In `COLLECT` there is room under every capacity of 3 or more (10_state.md R36). -/
theorem appendByte_withCapacity (b : Byte) (hrs : s.rs = .collect) :
    appendByte b (withCapacity capacity s) = withCapacity capacity (appendByte b s) := by
  obtain ⟨hroom, -, -⟩ := (configLegal_iff _).1 hc
  obtain ⟨hw, -, -⟩ := readerInv_collect hi.1 hrs
  rw [appendByte_of_lt (s := s) (by omega),
    appendByte_of_lt (s := withCapacity capacity s) (show s.wpos < capacity by omega)]
  rfl

theorem execProcess_withCapacity (b : Byte) (now : Nat) :
    execProcess b now (withCapacity capacity s) = mapNext (withCapacity capacity) (execProcess b now s) := by
  have hc' := configLegal_withCapacity hc hcap
  rcases inTime_or_begins_of_inv now hi with ht | hb
  · rw [execProcess_of_inTime hc ht, execProcess_of_inTime hc' ht, mapNext_next,
      appendByte_withCapacity hi hc hcap b (rs_of_inTime ht)]
  · rw [execProcess_of_begins hc hb, execProcess_of_begins hc' hb, mapNext_next, firstByte_withCapacity hc hcap]

theorem execGetData_withCapacity :
    execGetData (withCapacity capacity s) = mapNext (withCapacity capacity) (execGetData s) := by
  have hc' := configLegal_withCapacity hc hcap
  by_cases hrs : s.rs = .done
  · obtain ⟨b0, b1, b2, h0, h1, h2⟩ := frame_written hi hrs
    exact mapNext_of_next (execGetData_of_done hc hrs h0 h1 h2) (execGetData_of_done hc' hrs h0 h1 h2)
  · exact mapNext_of_next (execGetData_of_not_done hc hrs) (execGetData_of_not_done hc' hrs)

theorem execSend_withCapacity : execSend (withCapacity capacity s) = mapNext (withCapacity capacity) (execSend s) := by
  have hc' := configLegal_withCapacity hc hcap
  by_cases hm : s.msize = none
  · rw [execSend_of_unwritten hc hm, execSend_of_unwritten hc' hm, mapNext_fault]
  · obtain ⟨bytes, hb⟩ := message_buffered hi hm
    exact mapNext_of_next (execSend_of_buffered hc hb) (execSend_of_buffered hc' hb)

theorem pushThree_withCapacity (b0 b1 b2 : Byte) (n0 n1 n2 : Nat) :
    pushThree b0 b1 b2 n0 n1 n2 (withCapacity capacity s) =
      mapNext (withCapacity capacity) (pushThree b0 b1 b2 n0 n1 n2 s) := by
  unfold pushThree
  rw [execProcess_withCapacity hi hc hcap]
  refine andThen_mapNext fun s1 h1 => ?_
  have he1 := execProcess_effects h1
  have hi1 := he1.machineInv hi
  have hc1 : configLegal s1.cfg = true := by rwa [he1.cfg_eq]
  rw [execProcess_withCapacity hi1 hc1 hcap]
  refine andThen_mapNext fun s2 h2 => ?_
  have he2 := execProcess_effects h2
  exact execProcess_withCapacity (he2.machineInv hi1) (by rwa [he2.cfg_eq]) hcap b2 n2

/-- An operation answers the same under every capacity of 3 or more. -/
theorem exec_withCapacity (i : Instr) :
    exec i (withCapacity capacity s) = mapNext (withCapacity capacity) (exec i s) := by
  have hc' := configLegal_withCapacity hc hcap
  cases i with
  | process b now => exact execProcess_withCapacity hi hc hcap b now
  | reset => exact mapNext_of_next (guardConfig_of_legal hc _) (guardConfig_of_legal hc' _)
  | getData => exact execGetData_withCapacity hi hc hcap
  | vote r0 r1 r2 => exact mapNext_of_next (guardConfig_of_legal hc _) (guardConfig_of_legal hc' _)
  | encTemp st a0 a1 a2 p0 p1 p2 avg => exact mapNext_of_next (guardConfig_of_legal hc _) (guardConfig_of_legal hc' _)
  | encSys ss g0 g1 g2 => exact mapNext_of_next (guardConfig_of_legal hc _) (guardConfig_of_legal hc' _)
  | encErr ec => exact mapNext_of_next (guardConfig_of_legal hc _) (guardConfig_of_legal hc' _)
  | send => exact execSend_withCapacity hi hc hcap
  | reqTemperature n0 n1 n2 => exact pushThree_withCapacity hi hc hcap ..
  | reqSystemStatus n0 n1 n2 => exact pushThree_withCapacity hi hc hcap ..
  | rspTemperature st p0 p1 p2 a0 a1 a2 avg k =>
    exact mapNext_of_next (execRspTemperature_eq hc (k := k) ..) (execRspTemperature_eq hc' (k := k) ..)
  | rspSystemStatus ss g0 g1 g2 k =>
    exact mapNext_of_next (execRspSystemStatus_eq hc (k := k) ..) (execRspSystemStatus_eq hc' (k := k) ..)
  | rspError ec k =>
    exact mapNext_of_next (execRspError_eq hc (k := k) ..) (execRspError_eq hc' (k := k) ..)

end Capacity

theorem runOps_withCapacity {s : State} {capacity : Nat} (hi : MachineInv s) (hc : configLegal s.cfg = true)
    (hcap : 3 ≤ capacity) (ops : List Instr) :
    runOps ops (withCapacity capacity s) = mapNext (withCapacity capacity) (runOps ops s) := by
  induction ops generalizing s with
  | nil => rfl
  | cons i ops ih =>
    rw [runOps_cons, runOps_cons, exec_withCapacity hi hc hcap]
    refine andThen_mapNext fun t ht => ?_
    have he := exec_effects ht
    exact ih (he.machineInv hi) (by rwa [he.cfg_eq])

theorem applyInput_withCapacity {s : State} {capacity : Nat} (hi : MachineInv s) (hc : configLegal s.cfg = true)
    (hcap : 3 ≤ capacity) (h : HostInput) :
    applyInput h (withCapacity capacity s) = mapNext (withCapacity capacity) (applyInput h s) := by
  rw [applyInput_eq, applyInput_eq, show (withCapacity capacity s).cfg.clockW = s.cfg.clockW from rfl]
  split
  · exact exec_withCapacity hi hc hcap _
  · rfl
  · exact runOps_withCapacity hi hc hcap _
  · rfl

theorem observe_withCapacity {s : State} {capacity : Nat} (hi : MachineInv s) (hc : configLegal s.cfg = true)
    (hcap : 3 ≤ capacity) (inputs : List HostInput) : observe inputs (withCapacity capacity s) = observe inputs s := by
  induction inputs generalizing s with
  | nil => rfl
  | cons input inputs ih =>
    have hw := applyInput_withCapacity hi hc hcap input
    cases ha : applyInput input s with
    | next t =>
      rw [ha, mapNext_next] at hw
      have he := applyInput_effects ha
      rw [observe_cons_of_next ha, observe_cons_of_next hw]
      exact ih (he.machineInv hi) (by rwa [he.cfg_eq])
    | fault f =>
      rw [ha, mapNext_fault] at hw
      rw [observe_cons_of_fault ha, observe_cons_of_fault hw]
      rfl
    | refused r =>
      rw [ha, mapNext_refused] at hw
      rw [observe_cons_of_refused ha, observe_cons_of_refused hw]
      rfl

/-- Settles O14: in every state of a run the invariant leaves room for a byte that is appended, so that nothing an operation does
depends on the capacity. -/
theorem capacityOfThreeOrMoreNeverShows : Obligations.CapacityOfThreeOrMoreNeverShows := by
  intro inputs c capacity hc hcap
  exact observe_withCapacity (s := State.powerOn c) (machineInv_powerOn c) hc hcap inputs

end Sys2Proof.Machine

/-! ## State: what every step and every run keep, and what no run shows

The invariant and the growth of `TX` and of the results follow from the effects of an operation (`exec_effects`). That hidden
state never shows is a simulation: from two `Twins` every operation has outcomes that are `Alike`. -/

namespace Sys2Proof.Machine

/-! ### One step (10_state.md R20, R31) -/

theorem step_of_idle {s : State} (h : s.host = []) : step s = .next s := by
  simp [step, stepWith, h]

theorem step_of_decode {s : State} {input : HostInput} {rest : List HostInput} {i : Instr} (h : s.host = input :: rest)
    (hd : decode s.cfg.clockW input = .ok i) : step s = exec i (setHost rest s) := by
  simp [step, stepWith, h, hd]

/-- Settles O6: with an empty queue a step takes no operation. -/
theorem stepWithoutOperationIsIdle : Obligations.StepWithoutOperationIsIdle :=
  fun _ h => step_of_idle h

/-- Settles O5: a step takes the operation at the head of the queue, and `withFetchWord` places its row there. -/
theorem stepRunsDecodedInstruction : Obligations.StepRunsDecodedInstruction := by
  refine ⟨fun s input rest i h hd => step_of_decode h hd, fun s nbits w i hd => ?_⟩
  have hhost : (s.withFetchWord nbits w).host = tableInput nbits w :: s.host := presentInput_host ..
  calc step (s.withFetchWord nbits w)
      _ = exec i (setHost s.host (presentInput (tableInput nbits w) s)) := step_of_decode hhost hd
      _ = exec i s := by rw [setHost_presentInput]

/-! ### The invariant (10_state.md R36, R37) -/

/-- Settles O2: nothing is written at power-on. -/
theorem powerOnMeetsInvariant : Obligations.PowerOnMeetsInvariant :=
  fun c => ⟨machineInv_powerOn c, machineInv_powerOn Config.ofVectors⟩

/-- The invariant does not speak of what the host has left to apply. -/
theorem machineInv_setHost {rest : List HostInput} {s : State} (h : MachineInv s) : MachineInv (setHost rest s) := h

/-- Settles O3: a step is nothing or a sequence of operations, and every effect of an operation keeps the invariant. -/
theorem stepKeepsInvariant : Obligations.StepKeepsInvariant := by
  intro s t hi h
  obtain rfl | ⟨ops, rest, hrun⟩ := step_eq_next h
  · exact hi
  · exact (runOps_effects hrun).machineInv (machineInv_setHost hi)

/-- In `START` nothing is collected. -/
theorem readerInv_start {s : State} (h : readerInv s = true) (hrs : s.rs = .start) : s.wpos = 0 := by
  simpa [readerInv, hrs] using h

/-- Settles O4: the invariant holds at power-on and is kept by every run; in `COLLECT` at most two bytes are collected, and a
legal capacity is at least three. -/
theorem readerInvariantOnEveryRun : Obligations.ReaderInvariantOnEveryRun := by
  intro c ops s hc hrun
  have he := runOps_effects hrun
  obtain ⟨hreader, -⟩ := he.machineInv (machineInv_powerOn c)
  have hcap : 3 ≤ s.cfg.rxCapacity := by
    rw [he.cfg_eq]
    exact ((configLegal_iff c).1 hc).1
  refine ⟨readerInv_start hreader, fun hrs => ?_, readerInv_done hreader, fun hrs => ?_⟩
  · obtain ⟨hw, htag, ht0⟩ := readerInv_collect hreader hrs
    exact ⟨hw, htag, Option.isSome_iff_exists.1 ht0⟩
  · obtain ⟨hw, -, -⟩ := readerInv_collect hreader hrs
    omega

/-! ### `TX` and the results only grow (10_state.md R33, 43_dispatch.md R207) -/

@[simp] theorem appendByte_tx (b : Byte) (s : State) : (appendByte b s).tx = s.tx := by
  unfold appendByte
  split_ifs <;> rfl

@[simp] theorem firstByte_tx (b : Byte) (now : Nat) (s : State) : (firstByte b now s).tx = s.tx := by
  unfold firstByte
  split_ifs <;> simp

theorem results_grow_appendByte (b : Byte) (s : State) : s.results <+: (appendByte b s).results := by
  unfold appendByte
  split_ifs <;> simp

theorem results_grow_firstByte (b : Byte) (now : Nat) (s : State) : s.results <+: (firstByte b now s).results := by
  unfold firstByte
  split_ifs
  · exact results_grow_appendByte b (beginMessage now s)
  · simp

theorem Effect.grows {s t : State} (h : Effect s t) : s.tx <+: t.tx ∧ s.results <+: t.results := by
  cases h with
  | begins b now hc hb => exact ⟨by simp, results_grow_firstByte b now (toStart s)⟩
  | appended b now hc ht => exact ⟨by simp, results_grow_appendByte b s⟩
  | cleared => simp
  | replied r => simp
  | voted r0 r1 r2 => simp
  | loaded size bytes hl hm => simp
  | sent bytes hb => simp

theorem Effects.grows {s t : State} (h : Effects s t) : s.tx <+: t.tx ∧ s.results <+: t.results := by
  induction h with
  | refl => simp
  | tail _ he ih => exact ⟨ih.1.trans he.grows.1, ih.2.trans he.grows.2⟩

/-- Settles O12: no effect of an operation removes a byte from `TX` or a result. -/
theorem transmitLogAndResultsOnlyGrow : Obligations.TransmitLogAndResultsOnlyGrow := by
  intro ops s t hrun
  obtain ⟨⟨bytes, htx⟩, rs, hrs⟩ := (runOps_effects hrun).grows
  exact ⟨⟨bytes, htx.symm⟩, rs, hrs.symm⟩

/-! ### What no run shows (10_state.md R35, 20_memory.md R57, R58, 70_reset_and_hazards.md R251) -/

/-- Two states of the invariant that differ only in what no operation can show. -/
structure Twins (s t : State) : Prop where
  inv_left : MachineInv s
  inv_right : MachineInv t
  view : SameView s t

/-- Two operations end alike: in twin states, in the same fault, or in the same refusal. -/
inductive Alike : Out → Out → Prop
  | next {s t : State} (h : Twins s t) : Alike (.next s) (.next t)
  | fault (f : Fault) : Alike (.fault f) (.fault f)
  | refused (r : Refusal) : Alike (.refused r) (.refused r)

/-- Sequences whose parts end alike end alike. -/
theorem Alike.andThen {o o' : Out} {k k' : State → Out} (h : Alike o o')
    (hk : ∀ s t, Twins s t → Alike (k s) (k' t)) : Alike (andThen o k) (andThen o' k') := by
  cases h with
  | next h => exact hk _ _ h
  | fault f => exact .fault f
  | refused r => exact .refused r

/-- Stores that read alike below `n` read alike with one more byte written at `n`. -/
theorem readList_write_congr {m m' : Memory} {n : Nat} (b : Byte) (hw : (Memory.readList m 0 n).isSome = true)
    (h : Memory.readList m 0 n = Memory.readList m' 0 n) :
    Memory.readList (Memory.write m n b) 0 (n + 1) = Memory.readList (Memory.write m' n b) 0 (n + 1) := by
  obtain ⟨vs, hvs⟩ := Option.isSome_iff_exists.1 hw
  refine Memory.readList_congr fun k _ hk => ?_
  by_cases hkn : k = n
  · simp [hkn]
  · have hlt : k < n := by omega
    rw [Memory.read_write_other _ _ hkn, Memory.read_write_other _ _ hkn, ← Nat.zero_add k,
      Memory.read_of_readList hvs hlt, Memory.read_of_readList (h ▸ hvs) hlt]

theorem sameView_firstByte {s t : State} (b : Byte) (now : Nat) (hc : configLegal s.cfg = true) (h : SameView s t) :
    SameView (firstByte b now (toStart s)) (firstByte b now (toStart t)) := by
  obtain ⟨hcfg, -, -, -, -, hmsize, hbuf, htx, hres⟩ := h
  obtain ⟨hcap, -, -⟩ := (configLegal_iff _).1 hc
  have hres' : s.results ++ [.reqAvail false] = t.results ++ [.reqAvail false] := by rw [hres]
  rw [firstByte_eq (s := toStart s) hcap, firstByte_eq (s := toStart t) (hcfg ▸ hcap)]
  split
  case isTrue hb =>
    exact ⟨hcfg, rfl, rfl, fun _ => by simp [hcfg], readList_write_congr (n := 0) _ rfl rfl, hmsize, hbuf, htx, hres'⟩
  case isFalse hb => exact ⟨hcfg, rfl, rfl, nofun, rfl, hmsize, hbuf, htx, hres'⟩

theorem sameView_loadMessage {s t : State} {size : MsgSize} {bytes : List Byte} (hl : bytes.length = sizeBytes size)
    (h : SameView s t) : SameView (loadMessage size bytes s) (loadMessage size bytes t) := by
  obtain ⟨hcfg, hrs, hwpos, ht0, hrxb, -, -, htx, hres⟩ := h
  exact ⟨hcfg, hrs, hwpos, ht0, hrxb, rfl,
    (bufferedMessage_loadMessage hl s).trans (bufferedMessage_loadMessage hl t).symm, htx, hres⟩

theorem sameView_reply {s t : State} (r : OpResult) (h : SameView s t) : SameView (reply r s) (reply r t) := by
  obtain ⟨hcfg, hrs, hwpos, ht0, hrxb, hmsize, hbuf, htx, hres⟩ := h
  exact ⟨hcfg, hrs, hwpos, ht0, hrxb, hmsize, hbuf, htx, by simp [hres]⟩

theorem sameView_transmit {s t : State} (bytes : List Byte) (h : SameView s t) :
    SameView (transmit bytes s) (transmit bytes t) := by
  obtain ⟨hcfg, hrs, hwpos, ht0, hrxb, hmsize, hbuf, htx, hres⟩ := h
  exact ⟨hcfg, hrs, hwpos, ht0, hrxb, hmsize, hbuf, by simp [htx], hres⟩

theorem sameView_clearReader {s t : State} (h : SameView s t) : SameView (clearReader s) (clearReader t) := by
  obtain ⟨hcfg, -, -, -, -, hmsize, hbuf, htx, hres⟩ := h
  exact ⟨hcfg, rfl, rfl, nofun, rfl, hmsize, hbuf, htx, hres⟩

/-- `VR` is not seen. -/
theorem sameView_setVR {s t : State} (v v' : VoteResult) (h : SameView s t) : SameView (setVR v s) (setVR v' t) := h

/-- Whether a byte comes in time depends on nothing hidden: `T0` is read in `COLLECT` only (40_request_reader.md R101). -/
theorem inTime_eq_of_sameView {s t : State} (now : Nat) (h : SameView s t) : inTime now s = inTime now t := by
  obtain ⟨hcfg, hrs, -, ht0, -⟩ := h
  unfold inTime
  rw [← hrs, ← hcfg]
  cases hs : s.rs with
  | collect => rw [ht0 hs]
  | start => rfl
  | done => rfl

section Twins

variable {s t : State} (h : Twins s t)
include h

theorem Twins.cfg_eq : s.cfg = t.cfg := h.view.1

theorem Twins.legal (hc : configLegal s.cfg = true) : configLegal t.cfg = true := h.cfg_eq ▸ hc

/-- Operations that complete in states of the same view end alike. -/
theorem Twins.alike_of_next {o o' : Out} {s' t' : State} (hs : o = .next s') (ht : o' = .next t') (es : Effects s s')
    (et : Effects t t') (hv : SameView s' t') : Alike o o' := by
  rw [hs, ht]
  exact .next ⟨es.machineInv h.inv_left, et.machineInv h.inv_right, hv⟩

/-- Twins refuse an illegal configuration alike, so a guarded operation is looked at under a legal one only. -/
theorem Twins.alike_of_legal {o o' : Out}
    (hl : configLegal s.cfg = true → configLegal t.cfg = true → Alike (guardConfig s o) (guardConfig t o')) :
    Alike (guardConfig s o) (guardConfig t o') := by
  cases hc : configLegal s.cfg with
  | true => exact hl hc (h.legal hc)
  | false =>
    rw [guardConfig_of_illegal hc, guardConfig_of_illegal (h.cfg_eq ▸ hc)]
    exact .refused _

/-- Twins hold the same bytes of `RXB` below `WPOS`. -/
theorem Twins.read_rxb_eq {k : Nat} (hk : k < s.wpos) : Memory.read s.rxb k = Memory.read t.rxb k := by
  obtain ⟨-, hcoll, -⟩ := h.inv_left
  obtain ⟨-, -, hwpos, -, hrxb, -⟩ := h.view
  obtain ⟨vs, hvs⟩ := Option.isSome_iff_exists.1 hcoll
  have hs := Memory.read_of_readList hvs hk
  have ht := Memory.read_of_readList (hrxb ▸ hvs) (hwpos ▸ hk)
  simpa using hs.trans ht.symm

theorem Twins.sameView_appendByte (b : Byte) (hc : configLegal s.cfg = true) (hcollect : s.rs = .collect) :
    SameView (appendByte b s) (appendByte b t) := by
  obtain ⟨hreader, hcoll, -⟩ := h.inv_left
  obtain ⟨hcfg, hrs, hwpos, ht0, hrxb, hmsize, hbuf, htx, hres⟩ := h.view
  obtain ⟨hw, -, -⟩ := readerInv_collect hreader hcollect
  obtain ⟨hcap, -, -⟩ := (configLegal_iff _).1 hc
  have hroom : s.wpos < s.cfg.rxCapacity := by omega
  rw [appendByte_of_lt hroom, appendByte_of_lt (hcfg ▸ hwpos ▸ hroom)]
  refine ⟨hcfg, by simp [hrs, hwpos], by simp [hwpos], fun _ => ht0 hcollect, ?_, hmsize, hbuf, htx, by simp [hres, hwpos]⟩
  simp only [← hwpos] at hrxb ⊢
  exact readList_write_congr b hcoll hrxb

theorem Twins.execProcess_alike (b : Byte) (now : Nat) : Alike (execProcess b now s) (execProcess b now t) := by
  refine h.alike_of_legal fun hc hc' => ?_
  have heq := inTime_eq_of_sameView now h.view
  cases hin : inTime now s with
  | true =>
    have hs := execProcess_of_inTime (b := b) hc hin
    have ht := execProcess_of_inTime (b := b) hc' (heq ▸ hin)
    exact h.alike_of_next hs ht (execProcess_effects hs) (execProcess_effects ht)
      (h.sameView_appendByte b hc (rs_of_inTime hin))
  | false =>
    have hs := execProcess_of_begins (b := b) hc
      ((inTime_or_begins_of_inv now h.inv_left).resolve_left (by simp [hin]))
    have ht := execProcess_of_begins (b := b) hc'
      ((inTime_or_begins_of_inv now h.inv_right).resolve_left (by simp [← heq, hin]))
    exact h.alike_of_next hs ht (execProcess_effects hs) (execProcess_effects ht) (sameView_firstByte b now hc h.view)

/-- `GET_DATA` reads the frame in `DONE`, where all of it is below `WPOS`. -/
theorem Twins.execGetData_alike : Alike (execGetData s) (execGetData t) := by
  refine h.alike_of_legal fun hc hc' => ?_
  obtain ⟨-, hrs, hwpos, -⟩ := h.view
  by_cases hdone : s.rs = .done
  · obtain ⟨b0, b1, b2, h0, h1, h2⟩ := frame_written h.inv_left hdone
    obtain ⟨hw, -⟩ := readerInv_done h.inv_left.1 hdone
    have hs := execGetData_of_done hc hdone h0 h1 h2
    have hread (k : Nat) (hk : k < 3) : Memory.read t.rxb k = Memory.read s.rxb k := (h.read_rxb_eq (by omega)).symm
    have ht := execGetData_of_done hc' (hrs ▸ hdone) ((hread 0 (by omega)).trans h0) ((hread 1 (by omega)).trans h1)
      ((hread 2 (by omega)).trans h2)
    rw [← hwpos] at ht
    exact h.alike_of_next hs ht (execGetData_effects hs) (execGetData_effects ht) (sameView_reply _ h.view)
  · have hs := execGetData_of_not_done hc hdone
    have ht := execGetData_of_not_done hc' (hrs ▸ hdone)
    exact h.alike_of_next hs ht (execGetData_effects hs) (execGetData_effects ht) (sameView_reply _ h.view)

theorem Twins.execSend_alike : Alike (execSend s) (execSend t) := by
  refine h.alike_of_legal fun hc hc' => ?_
  obtain ⟨-, -, -, -, -, hmsize, hbuf, -⟩ := h.view
  by_cases hm : s.msize = none
  · show Alike (execSend s) (execSend t)
    rw [execSend_of_unwritten hc hm, execSend_of_unwritten hc' (hmsize ▸ hm)]
    exact .fault _
  · obtain ⟨bytes, hb⟩ := message_buffered h.inv_left hm
    have hs := execSend_of_buffered hc hb
    have ht := execSend_of_buffered hc' (hbuf ▸ hb)
    exact h.alike_of_next hs ht (execSend_effects hs) (execSend_effects ht) (sameView_transmit bytes h.view)

theorem Twins.encode_alike {size : MsgSize} {bytes : List Byte} (hl : bytes.length = sizeBytes size)
    (hm : emittable bytes = true) :
    Alike (guardConfig s (.next (loadMessage size bytes s))) (guardConfig t (.next (loadMessage size bytes t))) := by
  refine h.alike_of_legal fun hc hc' => ?_
  exact h.alike_of_next (guardConfig_of_legal hc _) (guardConfig_of_legal hc' _) (.single (.loaded size bytes hl hm))
    (.single (.loaded size bytes hl hm)) (sameView_loadMessage hl h.view)

theorem Twins.encode_then_send_alike {size : MsgSize} {bytes : List Byte} (hl : bytes.length = sizeBytes size)
    (hm : emittable bytes = true) :
    Alike (andThen (guardConfig s (.next (loadMessage size bytes s))) execSend)
      (andThen (guardConfig t (.next (loadMessage size bytes t))) execSend) :=
  (h.encode_alike hl hm).andThen fun _ _ h' => h'.execSend_alike

theorem Twins.execVote_alike (r0 r1 r2 : Reading) : Alike (execVote r0 r1 r2 s) (execVote r0 r1 r2 t) := by
  refine h.alike_of_legal fun hc hc' => ?_
  have hs : execVote r0 r1 r2 s = _ := guardConfig_of_legal hc _
  have ht : execVote r0 r1 r2 t = _ := guardConfig_of_legal hc' _
  refine h.alike_of_next hs ht (execVote_effects hs) (execVote_effects ht) ?_
  rw [h.cfg_eq]
  exact sameView_reply _ (sameView_setVR _ _ h.view)

theorem Twins.pushThree_alike (b0 b1 b2 : Byte) (n0 n1 n2 : Nat) :
    Alike (pushThree b0 b1 b2 n0 n1 n2 s) (pushThree b0 b1 b2 n0 n1 n2 t) :=
  (h.execProcess_alike b0 n0).andThen fun _ _ h1 =>
    (h1.execProcess_alike b1 n1).andThen fun _ _ h2 => h2.execProcess_alike b2 n2

/-- No operation tells twins apart. -/
theorem Twins.exec_alike (i : Instr) : Alike (exec i s) (exec i t) := by
  cases i with
  | process b now => exact h.execProcess_alike b now
  | reset =>
    exact h.alike_of_legal fun hc hc' => h.alike_of_next (guardConfig_of_legal hc _) (guardConfig_of_legal hc' _)
      (.single .cleared) (.single .cleared) (sameView_clearReader h.view)
  | getData => exact h.execGetData_alike
  | vote r0 r1 r2 => exact h.execVote_alike r0 r1 r2
  | encTemp st a0 a1 a2 p0 p1 p2 avg => exact h.encode_alike rfl (emittable_temperatureMessage ..)
  | encSys ss g0 g1 g2 => exact h.encode_alike rfl (emittable_systemStatusMessage ..)
  | encErr ec => exact h.encode_alike rfl (emittable_errorMessage ..)
  | send => exact h.execSend_alike
  | reqTemperature n0 n1 n2 => exact h.pushThree_alike ..
  | reqSystemStatus n0 n1 n2 => exact h.pushThree_alike ..
  | rspTemperature st p0 p1 p2 a0 a1 a2 avg k => exact h.encode_then_send_alike rfl (emittable_temperatureMessage ..)
  | rspSystemStatus ss g0 g1 g2 k => exact h.encode_then_send_alike rfl (emittable_systemStatusMessage ..)
  | rspError ec k => exact h.encode_then_send_alike rfl (emittable_errorMessage ..)

/-- Twins show the same results and the same `TX`. -/
theorem Twins.observeAt_eq (ending : Ending) : observeAt ending s = observeAt ending t := by
  obtain ⟨-, -, -, -, -, -, -, htx, hres⟩ := h.view
  simp [observeAt, htx, hres]

end Twins

theorem Twins.runOps_alike {s t : State} (h : Twins s t) (ops : List Instr) : Alike (runOps ops s) (runOps ops t) := by
  induction ops generalizing s t with
  | nil => exact .next h
  | cons i ops ih => exact (h.exec_alike i).andThen fun _ _ h' => ih h'

theorem Twins.applyInput_alike {s t : State} (h : Twins s t) (input : HostInput) :
    Alike (applyInput input s) (applyInput input t) := by
  rw [applyInput_eq, applyInput_eq, ← h.cfg_eq]
  split
  · exact h.exec_alike _
  · exact .refused _
  · exact h.runOps_alike _
  · exact .refused _

theorem Twins.observe_eq {s t : State} (h : Twins s t) (inputs : List HostInput) : observe inputs s = observe inputs t := by
  induction inputs generalizing s t with
  | nil => exact h.observeAt_eq .completed
  | cons input inputs ih =>
    have ha := h.applyInput_alike input
    generalize hs : applyInput input s = o at ha
    generalize ht : applyInput input t = o' at ha
    cases ha with
    | next h' =>
      rw [observe_cons_of_next hs, observe_cons_of_next ht]
      exact ih h'
    | fault f =>
      rw [observe_cons_of_fault hs, observe_cons_of_fault ht]
      exact h.observeAt_eq _
    | refused r =>
      rw [observe_cons_of_refused hs, observe_cons_of_refused ht]
      exact h.observeAt_eq _

/-- Settles O13: twins stay twins under every operation, so no run tells them apart. -/
theorem hiddenStateNeverShows : Obligations.HiddenStateNeverShows :=
  fun inputs _ _ hs ht hv => Twins.observe_eq ⟨hs, ht, hv⟩ inputs

end Sys2Proof.Machine

/-! ## Memory: who writes which element, and what the message buffer shows

An operation that owns the buffer encodes one message, the same from every state, and the response rows then send it
(`exec_encoder_eq`). The ownership of the buffer and the repeated encode both follow from that. -/

namespace Sys2Proof.Machine

/-! ### The operations by what they write (20_memory.md R61) -/

/-- Only an operation under a legal configuration answers a next state (60_exceptions.md R222). -/
theorem configLegal_of_exec_eq_next {i : Instr} {s t : State} (h : exec i s = .next t) : configLegal s.cfg = true := by
  by_contra hc
  rw [exec_of_illegal i (by simpa using hc)] at h
  cases h

/-- An owner of the buffer encodes one message that does not depend on the state; the response rows then send it (log 10). -/
theorem exec_encoder_eq {i : Instr} (hi : ownsBuffer i = true) :
    ∃ size bytes, bytes.length = sizeBytes size ∧ ∀ s, configLegal s.cfg = true →
      exec i s = .next (if ownsTransmit i then transmit bytes (loadMessage size bytes s) else loadMessage size bytes s) := by
  cases i with
  | encTemp st a0 a1 a2 p0 p1 p2 avg => exact ⟨_, _, rfl, fun s hc => execEncTemp_eq hc st a0 a1 a2 p0 p1 p2 avg⟩
  | encSys ss g0 g1 g2 => exact ⟨_, _, rfl, fun s hc => execEncSys_eq hc ss g0 g1 g2⟩
  | encErr ec => exact ⟨_, _, rfl, fun s hc => execEncErr_eq hc ec⟩
  | rspTemperature st p0 p1 p2 a0 a1 a2 avg k =>
    exact ⟨_, _, rfl, fun s hc => execRspTemperature_eq hc st p0 p1 p2 a0 a1 a2 avg k⟩
  | rspSystemStatus ss g0 g1 g2 k => exact ⟨_, _, rfl, fun s hc => execRspSystemStatus_eq hc ss g0 g1 g2 k⟩
  | rspError ec k => exact ⟨_, _, rfl, fun s hc => execRspError_eq hc ec k⟩
  | process | reset | getData | vote | send | reqTemperature | reqSystemStatus => cases hi

/-- `t` is `s` but for the reader's state and the results. -/
def ChangesReaderOnly (s t : State) : Prop :=
  ∃ rs wpos t0 rxb results, t = { s with rs := rs, wpos := wpos, t0 := t0, rxb := rxb, results := results }

theorem ChangesReaderOnly.trans {s t u : State} (h : ChangesReaderOnly s t) (h' : ChangesReaderOnly t u) :
    ChangesReaderOnly s u := by
  obtain ⟨_, _, _, _, _, rfl⟩ := h
  obtain ⟨_, _, _, _, _, rfl⟩ := h'
  exact ⟨_, _, _, _, _, rfl⟩

theorem changesReaderOnly_appendByte (b : Byte) (s : State) : ChangesReaderOnly s (appendByte b s) := by
  obtain hroom | hfull := Nat.lt_or_ge s.wpos s.cfg.rxCapacity
  · exact ⟨_, _, _, _, _, appendByte_of_lt hroom⟩
  · exact ⟨_, _, _, _, _, appendByte_of_ge hfull⟩

theorem changesReaderOnly_firstByte (b : Byte) (now : Nat) {s : State} (hc : configLegal s.cfg = true) :
    ChangesReaderOnly s (firstByte b now (toStart s)) := by
  obtain ⟨hcap, -, -⟩ := (configLegal_iff _).1 hc
  rw [firstByte_eq (s := toStart s) hcap]
  split
  · exact ⟨_, _, _, _, _, rfl⟩
  · exact ⟨_, _, _, _, _, rfl⟩

theorem execProcess_changesReaderOnly {b : Byte} {now : Nat} {s t : State} (h : execProcess b now s = .next t) :
    ChangesReaderOnly s t := by
  obtain ⟨hc, ⟨-, rfl⟩ | ⟨-, rfl⟩⟩ := execProcess_eq_next h
  · exact changesReaderOnly_firstByte b now hc
  · exact changesReaderOnly_appendByte b s

theorem pushThree_changesReaderOnly {b0 b1 b2 : Byte} {n0 n1 n2 : Nat} {s t : State}
    (h : pushThree b0 b1 b2 n0 n1 n2 s = .next t) : ChangesReaderOnly s t := by
  obtain ⟨s1, h0, h⟩ := andThen_eq_next.1 h
  obtain ⟨s2, h1, h2⟩ := andThen_eq_next.1 h
  exact (execProcess_changesReaderOnly h0).trans
    ((execProcess_changesReaderOnly h1).trans (execProcess_changesReaderOnly h2))

/-- From `s` to `t` the operation `i` writes only elements that it owns. -/
abbrev RespectsOwners (i : Instr) (s t : State) : Prop :=
  (ownsReader i = false → t.rs = s.rs ∧ t.wpos = s.wpos ∧ t.t0 = s.t0 ∧ t.rxb = s.rxb) ∧
  (ownsVote i = false → t.vr = s.vr) ∧
  (ownsBuffer i = false → t.mb = s.mb ∧ t.msize = s.msize) ∧
  (ownsTransmit i = false → t.tx = s.tx) ∧
  (returnsResult i = false → t.results = s.results) ∧
  t.host = s.host

/-- An owner of the reader's state that returns results may change nothing else. -/
theorem ChangesReaderOnly.respectsOwners {i : Instr} {s t : State} (hreader : ownsReader i = true)
    (hresult : returnsResult i = true) (h : ChangesReaderOnly s t) : RespectsOwners i s t := by
  obtain ⟨_, _, _, _, _, rfl⟩ := h
  simp [RespectsOwners, hreader, hresult]

/-- An owner of the buffer writes `MB` and `MSIZE`, and `TX` only as an owner of `TX`. -/
theorem exec_encoder_respectsOwners {i : Instr} {s t : State} (hi : ownsBuffer i = true) (h : exec i s = .next t) :
    RespectsOwners i s t := by
  obtain ⟨size, bytes, -, heq⟩ := exec_encoder_eq hi
  rw [heq s (configLegal_of_exec_eq_next h)] at h
  cases h
  split
  case isTrue hsends => simp [RespectsOwners, hi, hsends]
  case isFalse => simp [RespectsOwners, hi]

/-- Settles O11: the reader's operations change the reader's state and the results, the encoders and response rows the buffer
and `TX`, and the others only what they return, `VR`, or `TX`. -/
theorem eachStateElementHasItsOwner : Obligations.EachStateElementHasItsOwner := by
  intro i s t h
  show RespectsOwners i s t
  cases i with
  | process b now => exact (execProcess_changesReaderOnly h).respectsOwners rfl rfl
  | reqTemperature n0 n1 n2 => exact (pushThree_changesReaderOnly h).respectsOwners rfl rfl
  | reqSystemStatus n0 n1 n2 => exact (pushThree_changesReaderOnly h).respectsOwners rfl rfl
  | reset =>
    obtain ⟨-, ⟨⟩⟩ := guardConfig_eq_next.1 h
    simp [RespectsOwners, ownsReader]
  | getData =>
    obtain ⟨-, ⟨-, rfl⟩ | ⟨b0, b1, b2, -, -, -, -, rfl⟩⟩ := execGetData_eq_next h
    · simp [RespectsOwners, returnsResult]
    · simp [RespectsOwners, returnsResult]
  | vote r0 r1 r2 =>
    obtain ⟨-, rfl⟩ := execVote_eq_next h
    simp [RespectsOwners, ownsVote, returnsResult]
  | send =>
    obtain ⟨-, bytes, -, rfl⟩ := execSend_eq_next h
    simp [RespectsOwners, ownsTransmit]
  | encTemp | encSys | encErr | rspTemperature | rspSystemStatus | rspError => exact exec_encoder_respectsOwners rfl h

/-! ### An int16 field read back (20_memory.md R52, 30_encoding.md R78) -/

/-- The pattern sent as `lo`, `hi` is `lo | hi << 8`. -/
theorem ofLe16_eq_or (lo hi : Byte) : ofLe16 lo hi = BitVec.ofNat 16 (lo.toNat ||| hi.toNat <<< 8) := by
  have happend : (ofLe16 lo hi).toNat = lo.toNat ||| hi.toNat <<< 8 := by
    rw [ofLe16, BitVec.toNat_append, Nat.lor_comm]
  rw [← happend, BitVec.ofNat_toNat, BitVec.setWidth_eq]

/-- A byte of the message just encoded is read at its offset. -/
theorem read_loadMessage_of_getElem? {size : MsgSize} {bytes : List Byte} {s : State} {a : Nat} {b : Byte}
    (h : bytes[a]? = some b) : Memory.read (loadMessage size bytes s).mb a = some b := by
  obtain ⟨ha, -⟩ := List.getElem?_eq_some_iff.1 h
  rw [read_loadMessage ha, h]

/-- Where the Temperature response carries its four temperatures (30_encoding.md R74). -/
theorem temperatureMessage_field (st : Byte) (a0 a1 a2 : Bool) (p0 p1 p2 avg : Temp) {k : Nat} {v : Temp}
    (h : (k, v) ∈ [(2, p0), (4, p1), (6, p2), (9, avg)]) :
    (temperatureMessage st a0 a1 a2 p0 p1 p2 avg)[k]? = some (lowByte v) ∧
      (temperatureMessage st a0 a1 a2 p0 p1 p2 avg)[k + 1]? = some (highByte v) := by
  simp only [List.mem_cons, Prod.mk.injEq, List.not_mem_nil, or_false] at h
  obtain ⟨rfl, rfl⟩ | ⟨rfl, rfl⟩ | ⟨rfl, rfl⟩ | ⟨rfl, rfl⟩ := h <;> exact ⟨rfl, rfl⟩

/-- Settles O49: the two bytes of a field are the low and the high byte of its temperature, which give it back. -/
theorem temperatureFieldsReadBack : Obligations.TemperatureFieldsReadBack := by
  intro s t st a0 a1 a2 p0 p1 p2 avg h k v hfield
  obtain ⟨-, ⟨⟩⟩ := guardConfig_eq_next.1 h
  obtain ⟨hlo, hhi⟩ := temperatureMessage_field st a0 a1 a2 p0 p1 p2 avg hfield
  refine ⟨lowByte v, highByte v, read_loadMessage_of_getElem? hlo, read_loadMessage_of_getElem? hhi, ?_⟩
  rw [← ofLe16_eq_or, ofLe16_le16]

/-! ### Repeating `SEND` and repeating an encode (20_memory.md R55) -/

/-- Two `SEND` of the buffered message append it twice. -/
theorem runOps_send_send {s : State} {bytes : List Byte} (hc : configLegal s.cfg = true)
    (h : bufferedMessage s = some bytes) :
    runOps [.send, .send] s = .next (transmit bytes (transmit bytes s)) :=
  calc runOps [.send, .send] s
      _ = andThen (execSend s) (runOps [.send]) := rfl
      _ = andThen (execSend (transmit bytes s)) .next := by rw [execSend_of_buffered hc h]; rfl
      _ = .next (transmit bytes (transmit bytes s)) := by rw [execSend_of_buffered (s := transmit bytes s) hc h]; rfl

/-- Where a message is already encoded, encoding it again changes no byte of `MB`. -/
theorem read_loadMessage_again {size : MsgSize} {bytes : List Byte} {s t : State} (ht : t.mb = (loadMessage size bytes s).mb)
    (a : Nat) : Memory.read (loadMessage size bytes t).mb a = Memory.read t.mb a := by
  obtain ha | ha := Nat.lt_or_ge a bytes.length
  · rw [ht, read_loadMessage ha, read_loadMessage ha]
  · exact read_loadMessage_other ha

/-- What an owner of the buffer leaves in it. -/
theorem exec_encoder_buffer {i : Instr} (hi : ownsBuffer i = true) :
    ∃ size bytes, ∀ s t, exec i s = .next t → t.msize = some size ∧ t.mb = (loadMessage size bytes s).mb := by
  obtain ⟨size, bytes, -, heq⟩ := exec_encoder_eq hi
  refine ⟨size, bytes, fun s t h => ?_⟩
  rw [heq s (configLegal_of_exec_eq_next h)] at h
  cases h
  split <;> exact ⟨rfl, rfl⟩

/-- Settles O52: `SEND` keeps the message it appends, and an encode repeated writes the bytes that are there. -/
theorem sendTwiceAppendsTwiceEncodeTwiceIsOnce : Obligations.SendTwiceAppendsTwiceEncodeTwiceIsOnce := by
  refine ⟨fun s bytes hc hb => runOps_send_send hc hb, fun i s t u hi hst htu => ?_⟩
  obtain ⟨size, bytes, hbuffer⟩ := exec_encoder_buffer hi
  obtain ⟨htsize, htmb⟩ := hbuffer s t hst
  obtain ⟨husize, humb⟩ := hbuffer t u htu
  refine ⟨husize.trans htsize.symm, fun a => ?_⟩
  rw [humb, read_loadMessage_again htmb]

end Sys2Proof.Machine

/-! ## Encoding: the decoder and the encoder undo each other, and what a step does with what it decodes

A word of an assigned code is decoded field by field (`decodeCommand_of_assigned`), and packing those fields again gives the
word back. A message decodes exactly if it is one the encoder writes (30_encoding.md R70 to R76, R84, R85). -/

namespace Sys2Proof.Machine

/-! ### Operands of a packed word read back (30_encoding.md R85; layout of log 7) -/

theorem byteAt_packFields {n lo : Nat} (h : n ≤ lo) (v : Nat) (rest : List (Nat × Nat)) :
    byteAt lo (packFields ((n, v) :: rest)) = byteAt (lo - n) (packFields rest) := by
  rw [byteAt, fieldAt_packFields h, byteAt]

theorem tempAt_packFields {n lo : Nat} (h : n ≤ lo) (v : Nat) (rest : List (Nat × Nat)) :
    tempAt lo (packFields ((n, v) :: rest)) = tempAt (lo - n) (packFields rest) := by
  rw [tempAt, fieldAt_packFields h, tempAt]

theorem flagAt_packFields {n lo : Nat} (h : n ≤ lo) (v : Nat) (rest : List (Nat × Nat)) :
    flagAt lo (packFields ((n, v) :: rest)) = flagAt (lo - n) (packFields rest) := by
  rw [flagAt, fieldAt_packFields h, flagAt]

@[simp] theorem byteAt_zero_packFields (b : Byte) (rest : List (Nat × Nat)) :
    byteAt 0 (packFields ((8, b.toNat) :: rest)) = b := by
  rw [byteAt, fieldAt_zero_packFields, Nat.mod_eq_of_lt b.isLt, BitVec.ofNat_toNat, BitVec.setWidth_eq]

@[simp] theorem tempAt_zero_packFields (t : Temp) (rest : List (Nat × Nat)) :
    tempAt 0 (packFields ((16, t.toNat) :: rest)) = t := by
  rw [tempAt, fieldAt_zero_packFields, Nat.mod_eq_of_lt t.isLt, BitVec.ofNat_toNat, BitVec.setWidth_eq]

@[simp] theorem flagAt_zero_packFields (f : Bool) (rest : List (Nat × Nat)) :
    flagAt 0 (packFields ((1, f.toNat) :: rest)) = f := by
  rw [flagAt, fieldAt_zero_packFields]
  cases f <;> rfl

/-! ### A command word by its code (30_encoding.md R84) -/

theorem fieldAt_low_byte (w : Nat) : fieldAt 0 8 w = w % 256 := by
  simp [fieldAt]

section
variable {clockW w : Nat}

theorem decodeCommand_process (h : fieldAt 0 8 w = 0) :
    decodeCommand clockW w = .ok (.process (byteAt 8 w) (fieldAt 16 clockW w)) := by
  simp only [decodeCommand, h]

theorem decodeCommand_reset (h : fieldAt 0 8 w = 1) : decodeCommand clockW w = .ok .reset := by
  simp only [decodeCommand, h]

theorem decodeCommand_getData (h : fieldAt 0 8 w = 2) : decodeCommand clockW w = .ok .getData := by
  simp only [decodeCommand, h]

theorem decodeCommand_vote (h : fieldAt 0 8 w = 3) :
    decodeCommand clockW w =
      .ok (.vote ⟨flagAt 8 w, tempAt 11 w⟩ ⟨flagAt 9 w, tempAt 27 w⟩ ⟨flagAt 10 w, tempAt 43 w⟩) := by
  simp only [decodeCommand, h]

theorem decodeCommand_encTemp (h : fieldAt 0 8 w = 4) :
    decodeCommand clockW w = .ok (.encTemp (byteAt 8 w) (flagAt 16 w) (flagAt 17 w) (flagAt 18 w)
      (tempAt 19 w) (tempAt 35 w) (tempAt 51 w) (tempAt 67 w)) := by
  simp only [decodeCommand, h]

theorem decodeCommand_encSys (h : fieldAt 0 8 w = 5) :
    decodeCommand clockW w = .ok (.encSys (byteAt 8 w) (flagAt 16 w) (flagAt 17 w) (flagAt 18 w)) := by
  simp only [decodeCommand, h]

theorem decodeCommand_encErr (h : fieldAt 0 8 w = 6) : decodeCommand clockW w = .ok (.encErr (byteAt 8 w)) := by
  simp only [decodeCommand, h]

theorem decodeCommand_send (h : fieldAt 0 8 w = 7) : decodeCommand clockW w = .ok .send := by
  simp only [decodeCommand, h]

theorem decodeCommand_of_reserved (h : 8 ≤ fieldAt 0 8 w) : decodeCommand clockW w = .error .badCommand := by
  unfold decodeCommand
  split
  case h_9 => rfl
  all_goals omega

end

/-! ### Decoding what was encoded -/

theorem clockReading_of_lt {clockW now : Nat} (h : now < 2 ^ clockW) : clockReading clockW now = now :=
  Nat.mod_eq_of_lt h

theorem clockReading_lt (clockW now : Nat) : clockReading clockW now < 2 ^ clockW :=
  Nat.mod_lt _ (by positivity)

/-- Settles O16: an operation's word has its code in the low byte and each operand where the decoder reads it; a wire row's
message has its identifier, its length and its reserved bits. -/
theorem decodeOfEncodeIsTheInstruction : Obligations.DecodeOfEncodeIsTheInstruction := by
  intro clockW i hfits
  cases i with
  | process b now =>
    have hnow : now < 2 ^ clockW := of_decide_eq_true hfits
    refine (decodeCommand_process (Laws.CommandCode.process b now clockW)).trans ?_
    simp [byteAt_packFields, fieldAt_packFields, fieldAt_zero_packFields, Nat.mod_eq_of_lt hnow]
  | reset => exact decodeCommand_reset (clockW := clockW) (Laws.CommandCode.reset clockW)
  | getData => exact decodeCommand_getData (clockW := clockW) (Laws.CommandCode.getData clockW)
  | vote r0 r1 r2 =>
    refine (decodeCommand_vote (Laws.CommandCode.vote r0 r1 r2 clockW)).trans ?_
    simp [flagAt_packFields, tempAt_packFields]
  | encTemp st a0 a1 a2 p0 p1 p2 avg =>
    refine (decodeCommand_encTemp (Laws.CommandCode.encTemp st a0 a1 a2 p0 p1 p2 avg clockW)).trans ?_
    simp [byteAt_packFields, flagAt_packFields, tempAt_packFields]
  | encSys ss g0 g1 g2 =>
    refine (decodeCommand_encSys (Laws.CommandCode.encSys ss g0 g1 g2 clockW)).trans ?_
    simp [byteAt_packFields, flagAt_packFields]
  | encErr ec =>
    refine (decodeCommand_encErr (Laws.CommandCode.encErr ec clockW)).trans ?_
    simp [byteAt_packFields]
  | send => exact decodeCommand_send (clockW := clockW) (Laws.CommandCode.send clockW)
  | reqTemperature n0 n1 n2 | reqSystemStatus n0 n1 n2 =>
    obtain ⟨h0, h1, h2⟩ : n0 < 2 ^ clockW ∧ n1 < 2 ^ clockW ∧ n2 < 2 ^ clockW := of_decide_eq_true hfits
    simp [decode, encode, decodeRequest, clockReading_of_lt, h0, h1, h2]
  | rspTemperature st p0 p1 p2 a0 a1 a2 avg k =>
    simp [decode, encode, decodeResponse, temperatureBody, flagsReserved_packFlags, ofLe16_le16, packFlags_bit0,
      packFlags_bit1, packFlags_bit2]
  | rspSystemStatus ss g0 g1 g2 k =>
    simp [decode, encode, decodeResponse, systemStatusBody, flagsReserved_packFlags, packFlags_bit0, packFlags_bit1,
      packFlags_bit2]
  | rspError ec k => simp [decode, encode, decodeResponse, errorBody]

/-! ### Encoding what was decoded: command words -/

/-- The fields of `w` of the given widths, one above the other from bit `lo` up. -/
def fieldsOf : Nat → List Nat → Nat → List (Nat × Nat)
  | _, [], _ => []
  | lo, n :: widths, w => (n, fieldAt lo n w) :: fieldsOf (lo + n) widths w

/-- A field is its lowest bits and the field above them. -/
theorem fieldAt_add (lo n m w : Nat) : fieldAt lo (n + m) w = fieldAt lo n w + 2 ^ n * fieldAt (lo + n) m w := by
  simp only [fieldAt, Nat.pow_add, ← Nat.div_div_eq_div_mul, Nat.mod_mul]

/-- The fields of a word packed again are the word's bits that they cover. -/
theorem packFields_fieldsOf (lo : Nat) (widths : List Nat) (w : Nat) :
    packFields (fieldsOf lo widths w) = fieldAt lo widths.sum w := by
  induction widths generalizing lo with
  | nil => simp [fieldsOf, packFields, fieldAt, Nat.mod_one]
  | cons n widths ih =>
    rw [fieldsOf, packFields, ih, List.sum_cons, fieldAt_add, Nat.mod_eq_of_lt (fieldAt_lt lo n w)]

theorem fieldAt_zero_of_lt {width w : Nat} (h : w < 2 ^ width) : fieldAt 0 width w = w := by
  simp [fieldAt, Nat.mod_eq_of_lt h]

theorem toNat_byteAt (lo w : Nat) : (byteAt lo w).toNat = fieldAt lo 8 w := by
  rw [byteAt, BitVec.toNat_ofNat, Nat.mod_eq_of_lt (fieldAt_lt lo 8 w)]

theorem toNat_tempAt (lo w : Nat) : (tempAt lo w).toNat = fieldAt lo 16 w := by
  rw [tempAt, BitVec.toNat_ofNat, Nat.mod_eq_of_lt (fieldAt_lt lo 16 w)]

theorem toNat_flagAt (lo w : Nat) : (flagAt lo w).toNat = fieldAt lo 1 w := by
  have h := fieldAt_lt lo 1 w
  unfold flagAt
  interval_cases fieldAt lo 1 w <;> rfl

/-- The widths of a command word and the operands above it, by its code (30_encoding.md R84, R85). -/
def commandWidths (clockW : Nat) : Nat → List Nat
  | 0 => [8, 8, clockW]
  | 3 => [8, 1, 1, 1, 16, 16, 16]
  | 4 => [8, 8, 1, 1, 1, 16, 16, 16, 16]
  | 5 => [8, 8, 1, 1, 1]
  | 6 => [8, 8]
  | _ => [8]

/-- A word of an assigned code decodes to an operation of that code whose operands fit; its encoding is the word without the bits
above its bundle. -/
theorem decodeCommand_of_assigned (clockW : Nat) {w : Nat} (h : fieldAt 0 8 w < 8) :
    ∃ i, decodeCommand clockW w = .ok i ∧ operationCode i = some (fieldAt 0 8 w) ∧ i.fits clockW = true ∧
      encode clockW i = .command (packFields (fieldsOf 0 (commandWidths clockW (fieldAt 0 8 w)) w)) := by
  interval_cases hc : fieldAt 0 8 w
  · refine ⟨_, decodeCommand_process hc, rfl, decide_eq_true (fieldAt_lt ..), ?_⟩
    simp [encode, commandWidths, fieldsOf, hc, toNat_byteAt]
  · exact ⟨_, decodeCommand_reset hc, rfl, rfl, by simp [encode, commandWidths, fieldsOf, hc]⟩
  · exact ⟨_, decodeCommand_getData hc, rfl, rfl, by simp [encode, commandWidths, fieldsOf, hc]⟩
  · refine ⟨_, decodeCommand_vote hc, rfl, rfl, ?_⟩
    simp [encode, commandWidths, fieldsOf, hc, toNat_flagAt, toNat_tempAt]
  · refine ⟨_, decodeCommand_encTemp hc, rfl, rfl, ?_⟩
    simp [encode, commandWidths, fieldsOf, hc, toNat_byteAt, toNat_flagAt, toNat_tempAt]
  · refine ⟨_, decodeCommand_encSys hc, rfl, rfl, ?_⟩
    simp [encode, commandWidths, fieldsOf, hc, toNat_byteAt, toNat_flagAt]
  · exact ⟨_, decodeCommand_encErr hc, rfl, rfl, by simp [encode, commandWidths, fieldsOf, hc, toNat_byteAt]⟩
  · exact ⟨_, decodeCommand_send hc, rfl, rfl, by simp [encode, commandWidths, fieldsOf, hc]⟩

/-- Only a word of an assigned code decodes, and to what `decodeCommand_of_assigned` says. -/
theorem decodeCommand_eq_ok {clockW w : Nat} {i : Instr} (h : decodeCommand clockW w = .ok i) :
    fieldAt 0 8 w < 8 ∧ i.fits clockW = true ∧
      encode clockW i = .command (packFields (fieldsOf 0 (commandWidths clockW (fieldAt 0 8 w)) w)) := by
  obtain hlt | hge := Nat.lt_or_ge (fieldAt 0 8 w) 8
  · obtain ⟨j, hj, -, hfits, henc⟩ := decodeCommand_of_assigned clockW hlt
    obtain rfl : j = i := by rw [hj] at h; injection h
    exact ⟨hlt, hfits, henc⟩
  · rw [decodeCommand_of_reserved hge] at h
    cases h

/-! ### Encoding what was decoded: messages -/

/-- Received bytes decode to a request only if they are that request (30_encoding.md R73). -/
theorem decodeRequest_eq_ok {clockW : Nat} {arrivals : List (Byte × Nat)} {i : Instr}
    (h : decodeRequest clockW arrivals = .ok i) :
    ∃ n0 n1 n2,
      (arrivals = [(0x04#8, n0), (0x00#8, n1), (0x04#8, n2)] ∧
        i = .reqTemperature (clockReading clockW n0) (clockReading clockW n1) (clockReading clockW n2)) ∨
      (arrivals = [(0x04#8, n0), (0x01#8, n1), (0x05#8, n2)] ∧
        i = .reqSystemStatus (clockReading clockW n0) (clockReading clockW n1) (clockReading clockW n2)) := by
  unfold decodeRequest at h
  split at h
  case h_1 b0 n0 b1 n1 b2 n2 =>
    split_ifs at h with ht hs
    · obtain ⟨rfl, rfl, rfl⟩ := ht
      exact ⟨n0, n1, n2, .inl ⟨rfl, by cases h; rfl⟩⟩
    · obtain ⟨rfl, rfl, rfl⟩ := hs
      exact ⟨n0, n1, n2, .inr ⟨rfl, by cases h; rfl⟩⟩
  case h_2 => cases h

/-- The request of received bytes that decode and whose clock readings fit is written as these bytes. -/
theorem encode_of_decodeRequest {clockW : Nat} {arrivals : List (Byte × Nat)} {i : Instr}
    (h : decodeRequest clockW arrivals = .ok i) (hfit : ∀ a ∈ arrivals, a.2 < 2 ^ clockW) :
    encode clockW i = .request arrivals := by
  obtain ⟨n0, n1, n2, ⟨rfl, rfl⟩ | ⟨rfl, rfl⟩⟩ := decodeRequest_eq_ok h
  all_goals
    obtain ⟨h0, h1, h2⟩ : n0 < 2 ^ clockW ∧ n1 < 2 ^ clockW ∧ n2 < 2 ^ clockW := by simpa using hfit
    simp [encode, clockReading_of_lt, h0, h1, h2]

/-- A Temperature response from its bytes is written as these bytes (30_encoding.md R74). -/
theorem encode_rspTemperature_of_bytes (clockW : Nat) (st l0 h0 l1 h1 l2 h2 la ha k : Byte) {f : Byte}
    (hf : flagsReserved f = true) :
    encode clockW (.rspTemperature st (ofLe16 l0 h0) (ofLe16 l1 h1) (ofLe16 l2 h2) f[0] f[1] f[2] (ofLe16 la ha) k) =
      .response [temperatureId, st, l0, h0, l1, h1, l2, h2, f, la, ha, k] := by
  simp [encode, temperatureBody, lowByte_ofLe16, highByte_ofLe16, packFlags_of_reserved f hf]

/-- A SystemStatus response from its bytes is written as these bytes (30_encoding.md R75). -/
theorem encode_rspSystemStatus_of_bytes (clockW : Nat) (ss k : Byte) {f : Byte} (hf : flagsReserved f = true) :
    encode clockW (.rspSystemStatus ss f[0] f[1] f[2] k) = .response [systemStatusId, ss, f, k] := by
  simp [encode, systemStatusBody, packFlags_of_reserved f hf]

/-- The response of bytes that decode is written as these bytes. -/
theorem encode_of_decodeResponse (clockW : Nat) {bytes : List Byte} {i : Instr} (h : decodeResponse bytes = .ok i) :
    encode clockW i = .response bytes := by
  unfold decodeResponse at h
  split at h
  case h_1 =>
    split_ifs at h with hid
    cases h
    rw [hid]
    rfl
  case h_2 =>
    split_ifs at h with hid
    obtain ⟨rfl, hf⟩ := hid
    cases h
    exact encode_rspSystemStatus_of_bytes clockW _ _ hf
  case h_3 =>
    split_ifs at h with hid
    obtain ⟨rfl, hf⟩ := hid
    cases h
    exact encode_rspTemperature_of_bytes clockW _ _ _ _ _ _ _ _ _ _ hf
  case h_4 => cases h

/-- Settles O18: a command word within the width of its bundle is its own fields packed, and a message is the bytes of the row it
decodes to. -/
theorem encodeOfDecodeIsTheWord : Obligations.EncodeOfDecodeIsTheWord := by
  refine ⟨fun clockW bytes i h => encode_of_decodeResponse clockW h, fun clockW arrivals i h => encode_of_decodeRequest h,
    fun clockW w i h h0 hbare h3 h4 h5 h6 => ?_⟩
  obtain ⟨hcode, -, henc⟩ := decodeCommand_eq_ok h
  have hw : w < 2 ^ (commandWidths clockW (fieldAt 0 8 w)).sum := by
    have hmod : w % 8 = fieldAt 0 8 w := by
      rw [fieldAt_low_byte] at hcode ⊢
      omega
    rw [hmod] at h0 hbare h3 h4 h5 h6
    interval_cases fieldAt 0 8 w
    · simpa [commandWidths, ← Nat.add_assoc] using h0 rfl
    · exact hbare (by decide)
    · exact hbare (by decide)
    · exact h3 rfl
    · exact h4 rfl
    · exact h5 rfl
    · exact h6 rfl
    · exact hbare (by decide)
  rw [henc, packFields_fieldsOf, fieldAt_zero_of_lt hw]

/-! ### What is decoded fits its widths (30_encoding.md R87) -/

/-- A response carries no clock reading. -/
theorem fits_of_encode_response {clockW : Nat} {i : Instr} {bytes : List Byte} (h : encode clockW i = .response bytes) :
    i.fits clockW = true := by
  cases i with
  | process | reqTemperature | reqSystemStatus => cases h
  | _ => rfl

/-- Settles O21: a command's clock operand is a field of `CLOCK_W` bits and a received byte's a residue; a response has none. -/
theorem decodedOperandsFit : Obligations.DecodedOperandsFit := by
  intro clockW input i h
  cases input with
  | command w =>
    obtain ⟨-, hfits, -⟩ := decodeCommand_eq_ok h
    exact hfits
  | request arrivals =>
    obtain ⟨n0, n1, n2, ⟨-, rfl⟩ | ⟨-, rfl⟩⟩ := decodeRequest_eq_ok h
    all_goals exact decide_eq_true ⟨clockReading_lt .., clockReading_lt .., clockReading_lt ..⟩
  | response bytes => exact fits_of_encode_response (encode_of_decodeResponse clockW h)

/-! ### Command words the step runs or refuses (30_encoding.md R84, R87) -/

/-- A word with any of bits 7:3 set is refused, whatever the configuration (60_exceptions.md R222, log 11). -/
theorem step_of_reserved {s : State} {w : Nat} {rest : List HostInput} (hs : s.host = .command w :: rest)
    (h : w / 8 % 32 ≠ 0) : step s = .refused .badCommand := by
  have hd : decode s.cfg.clockW (.command w) = .error .badCommand :=
    decodeCommand_of_reserved (by rw [fieldAt_low_byte]; omega)
  simp [step, stepWith, hs, hd]

/-- Settles O17: each code has its own arm in the decoder, and the words left are those with a reserved bit set. -/
theorem commandWordSelectsTheOperation : Obligations.CommandWordSelectsTheOperation := by
  intro clockW w
  rw [← fieldAt_low_byte]
  exact ⟨fun h => ⟨_, _, decodeCommand_process h⟩, decodeCommand_reset, decodeCommand_getData,
    fun h => ⟨_, _, _, decodeCommand_vote h⟩, fun h => ⟨_, _, _, _, _, _, _, _, decodeCommand_encTemp h⟩,
    fun h => ⟨_, _, _, _, decodeCommand_encSys h⟩, fun h => ⟨_, decodeCommand_encErr h⟩, decodeCommand_send,
    fun h s rest hs => step_of_reserved hs h⟩

/-- Byte 1 of the message after an encode. -/
theorem read_one_of_encode {s t : State} {size : MsgSize} {bytes : List Byte} {b : Byte} (hb : bytes[1]? = some b)
    (h : guardConfig s (.next (loadMessage size bytes s)) = .next t) : Memory.read t.mb 1 = some b := by
  obtain ⟨-, ⟨⟩⟩ := guardConfig_eq_next.1 h
  exact read_loadMessage_of_getElem? hb

/-- Settles O7: the low byte of a word without a reserved bit is an assigned code, and the encoders write byte 1 clamped. -/
theorem onlyReservedBitsRefuseACommand : Obligations.OnlyReservedBitsRefuseACommand := by
  intro s w rest hs
  refine ⟨step_of_reserved hs, fun h => ?_, fun v t _ => ⟨?_, fun g0 g1 g2 => ?_, fun a0 a1 a2 p0 p1 p2 avg => ?_⟩⟩
  · have hcode : fieldAt 0 8 w = w % 8 := by
      rw [fieldAt_low_byte]
      omega
    obtain ⟨i, hd, hop, hfits, -⟩ := decodeCommand_of_assigned s.cfg.clockW (w := w) (by omega)
    exact ⟨i, by rw [hop, hcode], hd, hfits, step_of_decode hs hd⟩
  · exact read_one_of_encode (bytes := errorMessage v) rfl
  · exact read_one_of_encode (bytes := systemStatusMessage v g0 g1 g2) rfl
  · exact read_one_of_encode (bytes := temperatureMessage v a0 a1 a2 p0 p1 p2 avg) rfl

/-! ### Messages the step runs or refuses (30_encoding.md R70 to R76, R81, R82) -/

/-- Received bytes that are no legal request are PROCESSed one by one. -/
theorem step_of_otherBytes {s : State} {input : HostInput} {rest : List HostInput} {pushes : List Instr}
    (hs : s.host = input :: rest) (hd : decode s.cfg.clockW input = .error (.otherBytes pushes)) :
    step s = runOps pushes (setHost rest s) := by
  simp [step, stepWith, runOps, hs, hd]

/-- Settles O19: received bytes decode to the `PROCESS` of each of them, or to a request row that does the same. -/
theorem receivedBytesAreProcessedOneByOne : Obligations.ReceivedBytesAreProcessedOneByOne := by
  intro s arrivals rest hs
  show step s = runOps (pushArrivals s.cfg.clockW arrivals) (setHost rest s)
  obtain ⟨i, hd, hrow⟩ | hd := decodeRequest_cases s.cfg.clockW arrivals
  · exact (step_of_decode hs hd).trans (hrow _)
  · exact step_of_otherBytes hs hd

/-- Settles O36: a request row is its three bytes arriving. -/
theorem requestRowsArePushedBytes : Obligations.RequestRowsArePushedBytes :=
  fun _ _ _ _ => ⟨pushThree_eq_runOps .., pushThree_eq_runOps ..⟩

/-- The bytes of a message that the block emits, its checksum and the bound of its ordinal left aside (30_encoding.md R70, R71,
R79). -/
def IsResponse (bytes : List Byte) : Prop :=
  (bytes.length = 3 ∧ bytes[0]? = some 0x03#8) ∨
    (bytes.length = 4 ∧ bytes[0]? = some 0x02#8 ∧ ∃ f, bytes[2]? = some f ∧ f.toNat < 8) ∨
    (bytes.length = 12 ∧ bytes[0]? = some 0x01#8 ∧ ∃ f, bytes[8]? = some f ∧ f.toNat < 8)

theorem toNat_packFlags_lt (f0 f1 f2 : Bool) : (packFlags f0 f1 f2).toNat < 8 :=
  (flagsReserved_iff _).1 (flagsReserved_packFlags f0 f1 f2)

/-- What the encoder writes as a response has a response's identifier, length and reserved bits. -/
theorem isResponse_of_encode {clockW : Nat} {i : Instr} {bytes : List Byte} (h : encode clockW i = .response bytes) :
    IsResponse bytes := by
  cases i with
  | rspError ec k =>
    cases h
    exact .inl ⟨rfl, rfl⟩
  | rspSystemStatus ss g0 g1 g2 k =>
    cases h
    exact .inr (.inl ⟨rfl, rfl, _, rfl, toNat_packFlags_lt g0 g1 g2⟩)
  | rspTemperature st p0 p1 p2 a0 a1 a2 avg k =>
    cases h
    exact .inr (.inr ⟨rfl, rfl, _, rfl, toNat_packFlags_lt a0 a1 a2⟩)
  | _ => cases h

/-- Every byte sequence with a response's identifier, length and reserved bits is written by the encoder. -/
theorem exists_encode_of_isResponse (clockW : Nat) {bytes : List Byte} (h : IsResponse bytes) :
    ∃ i, encode clockW i = .response bytes := by
  obtain ⟨hlen, hid⟩ | ⟨hlen, hid, f, hf, hlt⟩ | ⟨hlen, hid, f, hf, hlt⟩ := h
  · obtain ⟨b0, ec, k, rfl⟩ := List.length_eq_three.1 hlen
    cases hid
    exact ⟨.rspError ec k, rfl⟩
  · match bytes, hlen with
    | [b0, ss, b2, k], _ =>
      cases hid
      cases hf
      exact ⟨_, encode_rspSystemStatus_of_bytes clockW ss k ((flagsReserved_iff _).2 hlt)⟩
  · match bytes, hlen with
    | [b0, st, l0, h0, l1, h1, l2, h2, b8, la, ha, k], _ =>
      cases hid
      cases hf
      exact ⟨_, encode_rspTemperature_of_bytes clockW st l0 h0 l1 h1 l2 h2 la ha k ((flagsReserved_iff _).2 hlt)⟩

/-- Bytes presented as emitted decode, or the decoder says that the block never emits them (log 14). -/
theorem decodeResponse_cases (bytes : List Byte) :
    (∃ i, decodeResponse bytes = .ok i) ∨ decodeResponse bytes = .error .badMessage := by
  unfold decodeResponse
  split
  case h_4 => exact .inr rfl
  all_goals
    split
    · exact .inl ⟨_, rfl⟩
    · exact .inr rfl

theorem step_of_badMessage {s : State} {input : HostInput} {rest : List HostInput} (hs : s.host = input :: rest)
    (hd : decode s.cfg.clockW input = .error .badMessage) : step s = .refused .badMessage := by
  simp [step, stepWith, hs, hd]

/-- Settles O20: the responses are what the encoder writes in the emitted lane, which decodes back; all else does not decode. -/
theorem onlyResponsesDecodeAsEmitted : Obligations.OnlyResponsesDecodeAsEmitted := by
  intro s bytes rest hs
  show (IsResponse bytes → _) ∧ (¬IsResponse bytes → _)
  refine ⟨fun h => ?_, fun h => ?_⟩
  · obtain ⟨i, henc⟩ := exists_encode_of_isResponse s.cfg.clockW h
    have hd := decodeOfEncodeIsTheInstruction s.cfg.clockW i (fits_of_encode_response henc)
    rw [henc] at hd
    exact ⟨i, hd, henc, step_of_decode hs hd⟩
  · obtain ⟨i, hd⟩ | hd := decodeResponse_cases bytes
    · exact absurd (isResponse_of_encode (encode_of_decodeResponse s.cfg.clockW hd)) h
    · exact step_of_badMessage hs hd

/-- Settles O22: the decoder evaluated on the words of the spec. -/
theorem specWordsDecode : Obligations.SpecWordsDecode := by
  unfold Obligations.SpecWordsDecode
  decide

/-! ### Response rows (30_encoding.md R72, R74 to R76, R80; log 10) -/

/-- Two operations in sequence. -/
theorem runOps_pair (i j : Instr) (s : State) : runOps [i, j] s = andThen (exec i s) (exec j) := by
  have hlast : runOps [j] = exec j := funext fun t => andThen_self (exec j t)
  rw [runOps_cons, hlast]

/-- What an operation leaves that does what an encode and a `SEND` do, and whose message is encoded and sent. -/
theorem row_encodes_and_sends {row enc : Instr} {s : State} {size : MsgSize} {bytes : List Byte}
    (hl : bytes.length = sizeBytes size) (hseq : exec row s = runOps [enc, .send] s)
    (hrow : exec row s = .next (transmit bytes (loadMessage size bytes s))) :
    ∃ t bytes, exec row s = .next t ∧ runOps [enc, .send] s = .next t ∧ bufferedMessage t = some bytes ∧
      t = { s with mb := t.mb, msize := some size, tx := s.tx ++ bytes } ∧
      ∀ a, sizeBytes size ≤ a → Memory.read t.mb a = Memory.read s.mb a :=
  ⟨_, bytes, hrow, hseq ▸ hrow, bufferedMessage_loadMessage hl s, rfl,
    fun _ ha => read_loadMessage_other (size := size) (hl.trans_le ha)⟩

/-- Settles O53: a response row is the encode of its fields and a `SEND`, which finds the message in the buffer. -/
theorem responseRowsEncodeAndSend : Obligations.ResponseRowsEncodeAndSend := by
  intro s st a0 a1 a2 p0 p1 p2 avg k hc
  exact ⟨
    row_encodes_and_sends (size := .twelve) rfl (runOps_pair (.encTemp st a0 a1 a2 p0 p1 p2 avg) .send s).symm
      (execRspTemperature_eq hc st p0 p1 p2 a0 a1 a2 avg k),
    row_encodes_and_sends (size := .four) rfl (runOps_pair (.encSys st a0 a1 a2) .send s).symm
      (execRspSystemStatus_eq hc st a0 a1 a2 k),
    row_encodes_and_sends (size := .three) rfl (runOps_pair (.encErr st) .send s).symm (execRspError_eq hc st k)⟩

/-- An ordinal up to the sentinel is its own clamped value (30_encoding.md R80). -/
theorem clampTo_of_le {u v : Byte} (h : v ≤ u) : clampTo u v = v := by
  apply BitVec.eq_of_toNat_eq
  rw [toNat_clampTo, min_eq_left (BitVec.le_def.1 h)]

section
variable {st k : Byte} {a0 a1 a2 : Bool} {p0 p1 p2 avg : Temp}

theorem temperatureMessage_of_lawful (h : (Instr.rspTemperature st p0 p1 p2 a0 a1 a2 avg k).lawful = true) :
    temperatureMessage st a0 a1 a2 p0 p1 p2 avg = temperatureBody st p0 p1 p2 a0 a1 a2 avg ++ [k] := by
  simp only [Instr.lawful, Bool.and_eq_true, decide_eq_true_eq] at h
  obtain ⟨hst, rfl⟩ := h
  rw [temperatureMessage, clampVoteStatus, clampTo_of_le hst, sealMessage]

theorem systemStatusMessage_of_lawful (h : (Instr.rspSystemStatus st a0 a1 a2 k).lawful = true) :
    systemStatusMessage st a0 a1 a2 = systemStatusBody st a0 a1 a2 ++ [k] := by
  simp only [Instr.lawful, Bool.and_eq_true, decide_eq_true_eq] at h
  obtain ⟨hst, rfl⟩ := h
  rw [systemStatusMessage, clampSystemStatus, clampTo_of_le hst, sealMessage]

theorem errorMessage_of_lawful (h : (Instr.rspError st k).lawful = true) : errorMessage st = errorBody st ++ [k] := by
  simp only [Instr.lawful, Bool.and_eq_true, decide_eq_true_eq] at h
  obtain ⟨hst, rfl⟩ := h
  rw [errorMessage, clampErrorCode, clampTo_of_le hst, sealMessage]

end

/-- An operation whose message is encoded and sent puts that message on the wire and leaves it in `MB`. -/
theorem row_sends {row : Instr} {s : State} {size : MsgSize} {message bytes : List Byte}
    (hl : message.length = sizeBytes size)
    (hrow : exec row s = .next (transmit message (loadMessage size message s))) (hmessage : message = bytes) :
    ∃ t, exec row s = .next t ∧ t.tx = s.tx ++ bytes ∧ bufferedMessage t = some bytes := by
  subst hmessage
  exact ⟨_, hrow, rfl, bufferedMessage_loadMessage hl s⟩

/-- Settles O54: the encoder clamps an ordinal up to the sentinel to itself and computes the checksum that the row carries. -/
theorem lawfulResponseIsSentAsPresented : Obligations.LawfulResponseIsSentAsPresented := by
  intro i s bytes hc hlawful henc
  cases i with
  | rspTemperature st p0 p1 p2 a0 a1 a2 avg k =>
    cases henc
    exact row_sends (size := .twelve) rfl (execRspTemperature_eq hc st p0 p1 p2 a0 a1 a2 avg k)
      (temperatureMessage_of_lawful hlawful)
  | rspSystemStatus ss g0 g1 g2 k =>
    cases henc
    exact row_sends (size := .four) rfl (execRspSystemStatus_eq hc ss g0 g1 g2 k) (systemStatusMessage_of_lawful hlawful)
  | rspError ec k =>
    cases henc
    exact row_sends (size := .three) rfl (execRspError_eq hc ec k) (errorMessage_of_lawful hlawful)
  | _ => cases henc

end Sys2Proof.Machine

/-! ## Request Reader: `PROCESS`, `RESET` and `GET_DATA`, and when a request is complete

A byte that arrives begins a message (or is stray) or comes in time for one (`execProcess_eq_next`); each statement about
`PROCESS` goes by these two situations (40_request_reader.md R101 to R104). -/

namespace Sys2Proof.Machine

/-! ### When a byte is in time (40_request_reader.md R101) -/

section
variable {s : State} {now t0 : Nat} (hrs : s.rs = .collect) (ht0 : s.t0 = some t0)
include hrs ht0

theorem inTime_collect_iff : inTime now s = true ↔ elapsed s.cfg.clockW now t0 < s.cfg.rxTimeout := by
  simp [inTime, hrs, ht0]

theorem beginsMessage_collect_iff : beginsMessage now s = true ↔ s.cfg.rxTimeout ≤ elapsed s.cfg.clockW now t0 := by
  simp [beginsMessage, timedOut, hrs, ht0]

end

theorem beginsMessage_of_not_collect {s : State} (h : s.rs ≠ .collect) (now : Nat) : beginsMessage now s = true := by
  cases hrs : s.rs with
  | start => simp [beginsMessage, hrs]
  | done => simp [beginsMessage, hrs]
  | collect => exact absurd hrs h

theorem inTime_eq_false_of_begins {s : State} {now : Nat} (h : beginsMessage now s = true) : inTime now s = false := by
  refine Bool.eq_false_iff.2 fun ht => ?_
  rw [not_begins_of_inTime ht] at h
  cases h

/-- With `RX_TIMEOUT` 0 no byte is in time, since the timeout is inclusive. -/
theorem inTime_eq_false_of_zero_timeout {s : State} (h : s.cfg.rxTimeout = 0) (now : Nat) : inTime now s = false := by
  refine Bool.eq_false_iff.2 fun ht => ?_
  obtain ⟨t0, -, hlt⟩ := t0_of_inTime ht
  omega

/-- A byte is in time of a first byte at `n0` by the clock operands as given (log 13). -/
theorem inTime_of_first_byte_at {s : State} {n n0 : Nat} (h : ((n : Int) - n0) % 2 ^ s.cfg.clockW < s.cfg.rxTimeout)
    (hrs : s.rs = .collect) (ht0 : s.t0 = some (n0 % 2 ^ s.cfg.clockW)) : inTime n s = true := by
  rw [inTime_collect_iff hrs ht0, elapsed_congr rfl (Nat.mod_mod ..)]
  rw [← elapsed_cast] at h
  exact_mod_cast h

/-! ### What a first byte leaves (40_request_reader.md R102) -/

@[simp] theorem firstByte_results (b : Byte) (now : Nat) (s : State) :
    (firstByte b now s).results = s.results ++ [.reqAvail false] := by
  unfold firstByte appendByte
  split_ifs with htag hroom hthird
  · exact absurd hthird (by simp [requestSize])
  · rfl
  · rfl
  · rfl

section
variable {b : Byte} {now : Nat} {s : State} (hc : configLegal s.cfg = true)
include hc

theorem firstByte_rs : (firstByte b now s).rs = if b = requestTag then .collect else .start := by
  rw [firstByte_eq ((configLegal_iff _).1 hc).1]
  split_ifs <;> rfl

theorem firstByte_wpos : (firstByte b now s).wpos = if b = requestTag then 1 else 0 := by
  rw [firstByte_eq ((configLegal_iff _).1 hc).1]
  split_ifs <;> rfl

theorem firstByte_rxb :
    (firstByte b now s).rxb = if b = requestTag then Memory.write s.rxb 0 requestTag else s.rxb := by
  rw [firstByte_eq ((configLegal_iff _).1 hc).1]
  split_ifs <;> rfl

theorem firstByte_rs_ne_done : (firstByte b now s).rs ≠ .done := by
  rw [firstByte_rs hc]
  split_ifs <;> simp

/-- A first byte overwrites `RS` and `T0`, so the outcome depends on neither. -/
theorem execProcess_of_begins_congr {rs : ReaderState} {t0 : Option Nat} (hb : beginsMessage now s = true)
    (hb' : beginsMessage now { s with rs := rs, t0 := t0 } = true) :
    execProcess b now { s with rs := rs, t0 := t0 } = execProcess b now s := by
  have hsame : firstByte b now (toStart { s with rs := rs, t0 := t0 }) = firstByte b now (toStart s) := rfl
  rw [execProcess_of_begins hc hb, ← hsame]
  exact execProcess_of_begins hc hb'

end

/-! ### What `GET_DATA` returns (40_request_reader.md R120 to R122) -/

/-- The four checks: `ok` on a legal frame, with the type of byte 1; otherwise the sentinel (R121). -/
theorem decodeFrame_checks (wpos : Nat) (b0 b1 b2 : Byte) :
    ∃ ok rtype, decodeFrame wpos b0 b1 b2 = .data ok rtype ∧
      (ok = true ↔ wpos = 3 ∧ b0 = requestTag ∧ b0 ^^^ b1 = b2 ∧ b1.toNat < 2) ∧
      (ok = true → (requestTypeOrdinal rtype).toNat = b1.toNat) ∧ (ok = false → rtype = .unknown) := by
  have htype : b1.toNat < 2 ↔ b1 = 0#8 ∨ b1 = 1#8 := by bv_omega
  rw [decodeFrame_eq, htype]
  split_ifs with htemp hstatus
  · obtain ⟨hlen, htag, hsum, rfl⟩ := htemp
    exact ⟨_, _, rfl, iff_of_true rfl ⟨hlen, htag, hsum, .inl rfl⟩, fun _ => rfl, nofun⟩
  · obtain ⟨hlen, htag, hsum, rfl⟩ := hstatus
    exact ⟨_, _, rfl, iff_of_true rfl ⟨hlen, htag, hsum, .inr rfl⟩, fun _ => rfl, nofun⟩
  · exact ⟨_, _, rfl, iff_of_false nofun (by tauto), nofun, fun _ => rfl⟩

/-- `GET_DATA` only returns a result, a failure outside `DONE`; it reads no result, so repeated it returns the same (R122). -/
theorem execGetData_eq_reply {s t : State} (h : execGetData s = .next t) :
    ∃ ok rtype, t = reply (.data ok rtype) s ∧ (s.rs ≠ .done → ok = false ∧ rtype = .unknown) ∧
      execGetData t = .next (reply (.data ok rtype) t) := by
  obtain ⟨hc, ⟨hrs, rfl⟩ | ⟨b0, b1, b2, hrs, h0, h1, h2, rfl⟩⟩ := execGetData_eq_next h
  · exact ⟨_, _, rfl, fun _ => ⟨rfl, rfl⟩, execGetData_of_not_done hc hrs⟩
  · obtain ⟨ok, rtype, hdata, -⟩ := decodeFrame_checks s.wpos b0 b1 b2
    rw [hdata]
    have hagain := execGetData_of_done (s := reply (.data ok rtype) s) hc hrs h0 h1 h2
    rw [reply_wpos, hdata] at hagain
    exact ⟨ok, rtype, rfl, fun hne => absurd hrs hne, hagain⟩

/-! ### With `RX_TIMEOUT` 0 no request completes (40_request_reader.md R105, 70_reset_and_hazards.md R257) -/

/-- The timeout is 0 and no `PROCESS` has completed a request. -/
def NeverAvailable (s : State) : Prop := s.cfg.rxTimeout = 0 ∧ .reqAvail true ∉ s.results

theorem NeverAvailable.of_execProcess {b : Byte} {now : Nat} {s t : State} (hs : NeverAvailable s)
    (h : execProcess b now s = .next t) : NeverAvailable t := by
  obtain ⟨hzero, hnone⟩ := hs
  obtain ⟨-, ⟨-, rfl⟩ | ⟨ht, -⟩⟩ := execProcess_eq_next h
  · exact ⟨by simpa using hzero, by simpa using hnone⟩
  · rw [inTime_eq_false_of_zero_timeout hzero] at ht
    cases ht

theorem NeverAvailable.of_pushThree {b0 b1 b2 : Byte} {n0 n1 n2 : Nat} {s t : State} (hs : NeverAvailable s)
    (h : pushThree b0 b1 b2 n0 n1 n2 s = .next t) : NeverAvailable t := by
  obtain ⟨s1, h0, h⟩ := andThen_eq_next.1 h
  obtain ⟨s2, h1, h2⟩ := andThen_eq_next.1 h
  exact ((hs.of_execProcess h0).of_execProcess h1).of_execProcess h2

/-- An operation without a result leaves the results as they were (20_memory.md R61). -/
theorem NeverAvailable.of_no_result {i : Instr} {s t : State} (hi : returnsResult i = false) (hs : NeverAvailable s)
    (h : exec i s = .next t) : NeverAvailable t := by
  obtain ⟨-, -, -, -, hresults, -⟩ := eachStateElementHasItsOwner i s t h
  rw [NeverAvailable, (exec_effects h).cfg_eq, hresults hi]
  exact hs

theorem NeverAvailable.of_exec {i : Instr} {s t : State} (hs : NeverAvailable s) (h : exec i s = .next t) :
    NeverAvailable t := by
  cases i with
  | process b now => exact hs.of_execProcess h
  | reqTemperature n0 n1 n2 => exact hs.of_pushThree h
  | reqSystemStatus n0 n1 n2 => exact hs.of_pushThree h
  | getData =>
    obtain ⟨ok, rtype, rfl, -⟩ := execGetData_eq_reply h
    exact ⟨hs.1, by simpa using hs.2⟩
  | vote r0 r1 r2 =>
    obtain ⟨-, rfl⟩ := execVote_eq_next h
    exact ⟨hs.1, by simpa using hs.2⟩
  | reset | encTemp | encSys | encErr | send | rspTemperature | rspSystemStatus | rspError => exact hs.of_no_result rfl h

/-- Settles O29: with `RX_TIMEOUT` 0 every byte begins a message or is stray, so no `PROCESS` returns `req_avail` true, and no
other operation can. -/
theorem zeroTimeoutNeverCompletes : Obligations.ZeroTimeoutNeverCompletes := by
  intro ops s t hzero hnone hrun
  have hkeep : NeverAvailable s → NeverAvailable t :=
    runOps_induct (R := fun s t => NeverAvailable s → NeverAvailable t) (fun _ => id) (fun _ _ _ h h' => h' ∘ h)
      (fun _ _ _ h hs => hs.of_exec h) hrun
  exact (hkeep ⟨hzero, hnone⟩).2

/-! ### First and later bytes (40_request_reader.md R101 to R103) -/

/-- Settles O23: what a first byte leaves, whether it is the tag or stray; a `GET_DATA` then finds the reader outside `DONE`. -/
theorem processFirstByteBeginsOrIsStray : Obligations.ProcessFirstByteBeginsOrIsStray := by
  intro s b now hc hnow hb
  refine ⟨_, execProcess_of_begins hc hb, ?_, fun htag => ?_, fun a ha => ?_,
    execGetData_of_not_done (by simpa using hc) (firstByte_rs_ne_done (s := toStart s) hc)⟩
  · rw [firstByte_eq (s := toStart s) ((configLegal_iff _).1 hc).1]
    by_cases htag : b = requestTag
    · simp [htag, requestTag, toStart, Nat.mod_eq_of_lt hnow]
    · have htag' : b ≠ 0x04#8 := htag
      simp [htag, htag', toStart, Nat.mod_eq_of_lt hnow]
  · rw [firstByte_rxb (s := toStart s) hc, if_pos (show b = requestTag from htag), Memory.read_write_same]
    rfl
  · rw [firstByte_rxb (s := toStart s) hc]
    split_ifs with htag
    · exact Memory.read_write_other _ _ (ha htag)
    · rfl

/-- Settles O24: the append with and without room; the invariant leaves room in `COLLECT`. -/
theorem processAppendsLaterByte : Obligations.ProcessAppendsLaterByte := by
  intro s b now hc ht
  have hrs := rs_of_inTime ht
  have hexec : exec (.process b now) s = .next (appendByte b s) := execProcess_of_inTime hc ht
  refine ⟨fun hroom => ?_, fun hfull => ?_, fun hinv => ?_⟩
  · rw [appendByte_of_lt hroom] at hexec
    exact ⟨_, hexec, by rw [hrs], Memory.read_write_same .., fun a ha => Memory.read_write_other _ _ ha⟩
  · rw [hexec, appendByte_of_ge hfull]
  · obtain ⟨hw, -, -⟩ := readerInv_collect hinv hrs
    obtain ⟨hcap, -, -⟩ := (configLegal_iff _).1 hc
    exact ⟨hw, by omega⟩

/-- Settles O25: from the timeout on the byte is a first byte, as in `START`; below it, it is appended; and a first byte
overwrites `T0`. -/
theorem processTimeoutIsInclusiveFromFirstByte : Obligations.ProcessTimeoutIsInclusiveFromFirstByte := by
  refine ⟨fun s b now t0 hc hrs ht0 => ⟨fun hlate => ?_, fun hearly hroom => ?_⟩, fun s b now t0 hrs => ?_⟩
  · rw [← elapsed_cast] at hlate
    have hb := (beginsMessage_collect_iff hrs ht0).2 (by exact_mod_cast hlate)
    exact (execProcess_of_begins_congr hc hb rfl).symm
  · rw [← elapsed_cast] at hearly
    have ht := (inTime_collect_iff hrs ht0).2 (by exact_mod_cast hearly)
    refine ⟨_, execProcess_of_inTime hc ht, ?_⟩
    rw [appendByte_of_lt hroom]
    refine ⟨ht0, rfl, ?_⟩
    by_cases hthird : s.wpos + 1 = 3 <;> simp [hthird, hrs]
  · by_cases hc : configLegal s.cfg = true
    · have hbegins (u : State) (hu : u.rs ≠ .collect) := beginsMessage_of_not_collect hu now
      exact execProcess_of_begins_congr hc (hbegins s hrs) (hbegins _ hrs)
    · have hillegal : configLegal s.cfg = false := by simpa using hc
      rw [exec_of_illegal _ hillegal, exec_of_illegal _ (by exact hillegal)]

/-! ### The third byte (40_request_reader.md R104, R106) -/

/-- Settles O26: only an append can return `req_avail` true, and it does so at `WPOS` 2, where a legal capacity leaves room. -/
theorem reqAvailExactlyOnThirdByte : Obligations.ReqAvailExactlyOnThirdByte := by
  intro s t b now h
  obtain ⟨hc, ⟨hb, rfl⟩ | ⟨ht, rfl⟩⟩ := execProcess_eq_next h
  · have hwpos : (firstByte b now (toStart s)).wpos = 1 ∨ (firstByte b now (toStart s)).wpos = 0 := by
      rw [firstByte_wpos (s := toStart s) hc]
      split_ifs <;> simp
    exact ⟨false, firstByte_results .., by simp [inTime_eq_false_of_begins hb], nofun,
      fun _ => firstByte_rs_ne_done (s := toStart s) hc, fun _ => ⟨rfl, hwpos⟩⟩
  · have hrs := rs_of_inTime ht
    obtain hroom | hfull := Nat.lt_or_ge s.wpos s.cfg.rxCapacity
    · rw [appendByte_of_lt hroom]
      exact ⟨_, rfl, by simp [ht], by simp +contextual, by simp +contextual [hrs], by simp [hrs]⟩
    · rw [appendByte_of_ge hfull]
      obtain ⟨hcap, -, -⟩ := (configLegal_iff _).1 hc
      exact ⟨false, rfl, iff_of_false nofun (by omega), nofun, nofun, by simp [hrs]⟩

/-- Settles O27: the invariant has one or two bytes collected, so the third comes with the first or the second byte in time; a
byte not in time begins a message. -/
theorem collectIsLeftWithinTwoBytes : Obligations.CollectIsLeftWithinTwoBytes := by
  intro s b1 b2 n1 n2 hc hinv hrs
  refine ⟨fun ht1 ht2 => ?_, fun hlate => ?_⟩
  · obtain ⟨hw, -, -⟩ := readerInv_collect hinv.1 hrs
    obtain ⟨hcap, -, -⟩ := (configLegal_iff _).1 hc
    have happend := appendByte_of_lt (b := b1) (s := s) (by omega)
    refine ⟨_, execProcess_of_inTime hc ht1, ?_⟩
    rcases hw with hw | hw
    · have hc' : configLegal (appendByte b1 s).cfg = true := by simpa using hc
      have ht2' : inTime n2 (appendByte b1 s) = true := by
        rw [happend]
        simpa [inTime, hw] using ht2
      have hw' : (appendByte b1 s).wpos = 2 := by simp [happend, hw]
      have hroom : (appendByte b1 s).wpos < (appendByte b1 s).cfg.rxCapacity := by
        rw [hw', appendByte_cfg]
        omega
      refine .inr ⟨by simp [happend, hw, hrs], _, execProcess_of_inTime hc' ht2', ?_⟩
      simp [appendByte_of_lt hroom, hw']
    · exact .inl (by simp [happend, hw])
  · have hb : beginsMessage n1 s = true := (inTime_or_begins_of_inv n1 hinv).resolve_left (by simp [hlate])
    exact ⟨hb, _, execProcess_of_begins hc hb, firstByte_rs (s := toStart s) hc⟩

/-! ### The clock operand counts modulo `2^CLOCK_W` (40_request_reader.md R101, 70_reset_and_hazards.md R256) -/

section
variable {s : State} {n n' : Nat} (h : n % 2 ^ s.cfg.clockW = n' % 2 ^ s.cfg.clockW)
include h

theorem checkTimeout_congr : checkTimeout n s = checkTimeout n' s := by
  unfold checkTimeout
  simp only [elapsed_congr h rfl]

theorem handleByte_congr (b : Byte) : handleByte b n s = handleByte b n' s := by
  have hbegin : beginMessage n s = beginMessage n' s := by simp only [beginMessage, clockReading, h]
  unfold handleByte firstByte
  rw [hbegin]

theorem execProcess_congr (b : Byte) : execProcess b n s = execProcess b n' s := by
  unfold execProcess
  rw [checkTimeout_congr h]
  cases ho : checkTimeout n' s with
  | next u =>
    obtain ⟨rfl, -⟩ | ⟨rfl, -⟩ := checkTimeout_eq_next ho
    · rw [andThen_next, andThen_next, handleByte_congr (s := toStart s) h]
    · rw [andThen_next, andThen_next, handleByte_congr h]
  | fault f => rfl
  | refused r => rfl

end

/-- Settles O28: `k` whole turns change nothing modulo `2^CLOCK_W`, so the elapsed time is `d`. -/
theorem clockWrapGivesSmallElapsed : Obligations.ClockWrapGivesSmallElapsed := by
  intro s b t0 d k hrs ht0 hd
  have hturns : (t0 + k * 2 ^ s.cfg.clockW + d) % 2 ^ s.cfg.clockW % 2 ^ s.cfg.clockW = (t0 + d) % 2 ^ s.cfg.clockW := by
    rw [Nat.mod_mod, Nat.add_right_comm, Nat.add_mul_mod_self_right]
  refine ⟨?_, execProcess_congr hturns b⟩
  rw [inTime_collect_iff hrs ht0, elapsed_congr hturns rfl, elapsed_add hd]

/-! ### `RESET` and `GET_DATA` (40_request_reader.md R110, R121, R122) -/

theorem execReset_eq {s : State} (hc : configLegal s.cfg = true) : execReset s = .next (clearReader s) :=
  guardConfig_of_legal hc _

/-- In `START` under the invariant there is nothing to clear. -/
theorem clearReader_eq_self {s : State} (hinv : readerInv s = true) (hrs : s.rs = .start) : clearReader s = s := by
  have hw := readerInv_start hinv hrs
  unfold clearReader
  rw [← hrs, ← hw]

/-- Settles O30: `RESET` clears the reader, so that a `GET_DATA` finds it outside `DONE`. -/
theorem resetClearsOnlyTheReader : Obligations.ResetClearsOnlyTheReader := by
  intro s hc
  refine ⟨execReset_eq hc, fun hrs hinv => ?_, fun _ =>
    ⟨_, execReset_eq hc, execGetData_of_not_done (s := clearReader s) hc (by simp)⟩⟩
  exact (execReset_eq hc).trans (by rw [clearReader_eq_self hinv hrs])

/-- Settles O31: `GET_DATA` in `DONE` returns the result of the four checks, the first two of which the invariant makes pass. -/
theorem getDataChecksTheFrame : Obligations.GetDataChecksTheFrame := by
  intro s b0 b1 b2 hc hrs h0 h1 h2
  refine ⟨?_, fun hinv => ?_⟩
  · obtain ⟨ok, rtype, hdata, hchecks⟩ := decodeFrame_checks s.wpos b0 b1 b2
    have hexec : exec .getData s = .next (reply (decodeFrame s.wpos b0 b1 b2) s) := execGetData_of_done hc hrs h0 h1 h2
    rw [hdata] at hexec
    exact ⟨ok, rtype, hexec, hchecks⟩
  · obtain ⟨hw, htag⟩ := readerInv_done hinv hrs
    exact ⟨hw, Option.some.inj (h0.symm.trans htag)⟩

/-- Settles O32: `GET_DATA` only returns a result, reads no result, and fails outside `DONE`. -/
theorem getDataWritesNoState : Obligations.GetDataWritesNoState := by
  refine ⟨fun s t h => ?_, fun s hc hrs => execGetData_of_not_done hc hrs⟩
  obtain ⟨ok, rtype, rfl, hfail, hagain⟩ := execGetData_eq_reply h
  exact ⟨ok, rtype, rfl, hfail, hagain⟩

/-! ### A request in time is framed (40_request_reader.md R106, 30_encoding.md R73; request rows log 9) -/

/-- The reader with the frame `REQUEST_TAG b1 b2` collected from a first byte at `now`. -/
def framed (b1 b2 : Byte) (now : Nat) (s : State) : State :=
  { s with rs := .done, wpos := 3, t0 := some (now % 2 ^ s.cfg.clockW), rxb := Memory.writeList s.rxb 0 [requestTag, b1, b2],
           results := s.results ++ [.reqAvail false, .reqAvail false, .reqAvail true] }

section
variable {s : State} {n0 n1 n2 : Nat} (hc : configLegal s.cfg = true) (hb : beginsMessage n0 s = true)
  (h1 : ((n1 : Int) - n0) % 2 ^ s.cfg.clockW < s.cfg.rxTimeout)
  (h2 : ((n2 : Int) - n0) % 2 ^ s.cfg.clockW < s.cfg.rxTimeout)
include hc hb h1 h2

/-- The tag and two bytes in time of it are framed, whatever these two are. -/
theorem pushThree_eq_framed (b1 b2 : Byte) : pushThree requestTag b1 b2 n0 n1 n2 s = .next (framed b1 b2 n0 s) := by
  obtain ⟨hcap, -, -⟩ := (configLegal_iff _).1 hc
  have hroom1 : 1 < s.cfg.rxCapacity := by omega
  have hroom2 : 2 < s.cfg.rxCapacity := by omega
  unfold pushThree
  rw [execProcess_of_begins hc hb, andThen_next, firstByte_eq (s := toStart s) hcap, if_pos rfl,
    execProcess_of_inTime (b := b1), andThen_next, appendByte_of_lt (b := b1),
    execProcess_of_inTime (b := b2), appendByte_of_lt (b := b2)]
  · simp [framed, toStart, Memory.writeList]
  · exact hroom2
  · exact hc
  · exact inTime_of_first_byte_at h2 rfl rfl
  · exact hroom1
  · exact hc
  · exact inTime_of_first_byte_at h1 rfl rfl

/-- A legal frame in time: what it leaves, and the `GET_DATA` that follows. -/
theorem request_arrives {b1 b2 : Byte} {rtype : RequestType} (hframe : decodeFrame 3 requestTag b1 b2 = .data true rtype) :
    ∃ t, pushThree requestTag b1 b2 n0 n1 n2 s = .next t ∧
      t = { s with rs := .done, wpos := 3, t0 := some (n0 % 2 ^ s.cfg.clockW), rxb := t.rxb,
                   results := s.results ++ [.reqAvail false, .reqAvail false, .reqAvail true] } ∧
      Memory.readList t.rxb 0 3 = some [requestTag, b1, b2] ∧
      (∀ a, 3 ≤ a → Memory.read t.rxb a = Memory.read s.rxb a) ∧
      execGetData t = .next (reply (.data true rtype) t) := by
  have hlist : Memory.readList (framed b1 b2 n0 s).rxb 0 3 = some [requestTag, b1, b2] := Memory.readList_writeList ..
  have hbyte {k : Nat} (hk : k < 3) : Memory.read (framed b1 b2 n0 s).rxb k = [requestTag, b1, b2][k]? := by
    simpa using Memory.read_of_readList hlist hk
  have hdata : execGetData (framed b1 b2 n0 s) = .next (reply (decodeFrame 3 requestTag b1 b2) (framed b1 b2 n0 s)) :=
    execGetData_of_done hc rfl (hbyte (by decide)) (hbyte (by decide)) (hbyte (by decide))
  rw [hframe] at hdata
  exact ⟨_, pushThree_eq_framed hc hb h1 h2 b1 b2, rfl, hlist, fun a ha => Memory.read_writeList_other (.inr ha), hdata⟩

end

/-- Settles O34: the frame `04 00 04` passes the four checks with type Temperature. -/
theorem temperatureRequestArrives : Obligations.TemperatureRequestArrives :=
  fun _ _ _ _ hc hb h1 h2 => request_arrives hc hb h1 h2 (b1 := 0x00#8) (b2 := 0x04#8) (by decide)

/-- Settles O35: the frame `04 01 05` passes the four checks with type SystemStatus. -/
theorem systemStatusRequestArrives : Obligations.SystemStatusRequestArrives :=
  fun _ _ _ _ hc hb h1 h2 => request_arrives hc hb h1 h2 (b1 := 0x01#8) (b2 := 0x05#8) (by decide)

end Sys2Proof.Machine

/-! ## Consensus Engine: what `VOTE` writes

Every statement is about `voteResult`, which `exec_vote_of_legal` ties to `VOTE`. The flags are `agreeFlag` on every path, the
status goes by the two counts, and the average is narrowed without loss because it lies between the bounds of its terms. -/

namespace Sys2Proof.Machine

/-- `VOTE` writes and returns the vote result and nothing else (41_consensus.md R140). -/
theorem exec_vote_of_legal {s : State} (hc : configLegal s.cfg = true) (r0 r1 r2 : Reading) :
    exec (.vote r0 r1 r2) s =
      .next { s with vr := some (voteResult s.cfg.tol r0 r1 r2),
                     results := s.results ++ [.voted (voteResult s.cfg.tol r0 r1 r2)] } :=
  guardConfig_of_legal hc _

/-- Settles O37: each shown temperature is `shownTemp` of its reading on every path. -/
theorem voteShowsValidTemperaturesOnly : Obligations.VoteShowsValidTemperaturesOnly :=
  fun s r0 r1 r2 hc =>
    ⟨_, exec_vote_of_legal hc r0 r1 r2, voteResult_temp0 s.cfg.tol r0 r1 r2, voteResult_temp1 s.cfg.tol r0 r1 r2,
      voteResult_temp2 s.cfg.tol r0 r1 r2⟩

/-- Settles O38: each flag is `agreeFlag` of its sensor on every path. -/
theorem voteAgreementIsWithinToleranceOfAValidPartner : Obligations.VoteAgreementIsWithinToleranceOfAValidPartner := by
  intro s r0 r1 r2 hc
  refine ⟨_, _, exec_vote_of_legal hc r0 r1 r2, rfl, ?_⟩
  rw [voteResult_agree0, voteResult_agree1, voteResult_agree2]
  exact ⟨agreeFlag_iff .., agreeFlag_iff .., agreeFlag_iff ..⟩

/-! ### Counting flags -/

theorem countFlags_eq_zero_iff (f0 f1 f2 : Bool) : countFlags f0 f1 f2 = 0 ↔ f0 = false ∧ f1 = false ∧ f2 = false := by
  simp [countFlags, and_assoc]

theorem countFlags_swap01 (f0 f1 f2 : Bool) : countFlags f1 f0 f2 = countFlags f0 f1 f2 := by
  unfold countFlags
  omega

theorem countFlags_swap12 (f0 f1 f2 : Bool) : countFlags f0 f2 f1 = countFlags f0 f1 f2 := by
  unfold countFlags
  omega

/-! ### The status by the counts (41_consensus.md R142, R145) -/

section
variable (tol : Int) (r0 r1 r2 : Reading)

/-- How many flags `VOTE` sets (41_consensus.md R140 step 5). -/
def countAgree : Nat :=
  countFlags (voteResult tol r0 r1 r2).agree0 (voteResult tol r0 r1 r2).agree1 (voteResult tol r0 r1 r2).agree2

theorem countAgree_eq :
    countAgree tol r0 r1 r2 = countFlags (agreeFlag tol r0 r1 r2) (agreeFlag tol r1 r0 r2) (agreeFlag tol r2 r0 r1) := by
  rw [countAgree, voteResult_agree0, voteResult_agree1, voteResult_agree2]

theorem voteResult_status_eq_ok_iff :
    (voteResult tol r0 r1 r2).status = 0#8 ↔ 2 ≤ countAgree tol r0 r1 r2 := by
  unfold countAgree
  obtain ⟨-, hn, hst, -⟩ | ⟨-, hn, hst, -⟩ | ⟨-, hn, hst, -⟩ := voteResult_status_avg tol r0 r1 r2
  · exact iff_of_false (by simp [hst]) (by omega)
  · exact iff_of_true hst hn
  · exact iff_of_false (by simp [hst]) (by omega)

theorem voteResult_status_eq_sensorError_iff :
    (voteResult tol r0 r1 r2).status = 1#8 ↔ countFlags r0.valid r1.valid r2.valid < 2 := by
  obtain ⟨hv, -, hst, -⟩ | ⟨hv, -, hst, -⟩ | ⟨hv, -, hst, -⟩ := voteResult_status_avg tol r0 r1 r2
  · exact iff_of_true hst hv
  · exact iff_of_false (by simp [hst]) (by omega)
  · exact iff_of_false (by simp [hst]) (by omega)

theorem voteResult_status_cases :
    (voteResult tol r0 r1 r2).status = 0#8 ∨ (voteResult tol r0 r1 r2).status = 1#8 ∨
      (voteResult tol r0 r1 r2).status = 2#8 := by
  obtain ⟨-, -, hst, -⟩ | ⟨-, -, hst, -⟩ | ⟨-, -, hst, -⟩ := voteResult_status_avg tol r0 r1 r2
  · exact .inr (.inl hst)
  · exact .inl hst
  · exact .inr (.inr hst)

/-- The status is Disagree exactly if it is neither OK nor SensorError (41_consensus.md R145). -/
theorem voteResult_status_eq_disagree_iff :
    (voteResult tol r0 r1 r2).status = 2#8 ↔
      (voteResult tol r0 r1 r2).status ≠ 0#8 ∧ 2 ≤ countFlags r0.valid r1.valid r2.valid := by
  rw [← not_lt, ← voteResult_status_eq_sensorError_iff tol r0 r1 r2]
  obtain hst | hst | hst := voteResult_status_cases tol r0 r1 r2
  · simp [hst]
  · simp [hst]
  · simp [hst]

theorem voteResult_avg_eq_zero (h : (voteResult tol r0 r1 r2).status ≠ 0#8) : (voteResult tol r0 r1 r2).avg = 0#16 := by
  obtain ⟨-, -, -, havg⟩ | ⟨-, -, hst, -⟩ | ⟨-, -, -, havg⟩ := voteResult_status_avg tol r0 r1 r2
  · exact havg
  · exact absurd hst h
  · exact havg

end

/-- Settles O39: the status goes by the two counts, and the flags of SensorError are those of fewer than two valid readings. -/
theorem voteStatusByCounts : Obligations.VoteStatusByCounts := by
  intro s r0 r1 r2 hc
  have hok := voteResult_status_eq_ok_iff s.cfg.tol r0 r1 r2
  have hdisagree := voteResult_status_eq_disagree_iff s.cfg.tol r0 r1 r2
  rw [ne_eq, hok, not_le, and_comm] at hdisagree
  refine ⟨_, _, exec_vote_of_legal hc r0 r1 r2, rfl, voteResult_status_eq_sensorError_iff .., hok, hdisagree,
    voteResult_status_cases .., voteResult_avg_eq_zero _ _ _ _, fun herror => ?_, voteResult_temp0 .., voteResult_temp1 ..,
    voteResult_temp2 ..⟩
  rw [voteResult_agree0, voteResult_agree1, voteResult_agree2]
  exact agreeFlag_of_few ((voteResult_status_eq_sensorError_iff ..).1 herror)

/-! ### The average (41_consensus.md R144) -/

/-- A sensor's contribution to the sum, by bounds of its temperature that need to hold only if it agrees. -/
theorem summand_between {a : Bool} {r : Reading} {lo hi : Int}
    (h : a = true → lo ≤ r.temp.toInt ∧ r.temp.toInt ≤ hi) :
    lo * a.toNat ≤ summand a r ∧ summand a r ≤ hi * a.toNat := by
  cases a with
  | false => simp [summand]
  | true => simpa [summand] using h rfl

/-- The mean of the agreeing temperatures lies between every bounds of them (41_consensus.md R144, R147). -/
theorem mean_between {a0 a1 a2 : Bool} {r0 r1 r2 : Reading} {lo hi : Int} (hn : 0 < countFlags a0 a1 a2)
    (h0 : a0 = true → lo ≤ r0.temp.toInt ∧ r0.temp.toInt ≤ hi)
    (h1 : a1 = true → lo ≤ r1.temp.toInt ∧ r1.temp.toInt ≤ hi)
    (h2 : a2 = true → lo ≤ r2.temp.toInt ∧ r2.temp.toInt ≤ hi) :
    lo ≤ Int.tdiv (summand a0 r0 + summand a1 r1 + summand a2 r2) (countFlags a0 a1 a2) ∧
      Int.tdiv (summand a0 r0 + summand a1 r1 + summand a2 r2) (countFlags a0 a1 a2) ≤ hi := by
  obtain ⟨lo0, hi0⟩ := summand_between h0
  obtain ⟨lo1, hi1⟩ := summand_between h1
  obtain ⟨lo2, hi2⟩ := summand_between h2
  have hcount : (countFlags a0 a1 a2 : Int) = a0.toNat + a1.toNat + a2.toNat := by simp [countFlags]
  exact tdiv_between hn (by rw [hcount]; linarith) (by rw [hcount]; linarith)

/-- The average of an OK vote is the truncating mean: narrowing it to int16 loses nothing (41_consensus.md R144). -/
theorem voteResult_avg_toInt {tol : Int} {r0 r1 r2 : Reading} (h : (voteResult tol r0 r1 r2).status = 0#8) :
    (voteResult tol r0 r1 r2).avg.toInt =
      Int.tdiv (summand (voteResult tol r0 r1 r2).agree0 r0 + summand (voteResult tol r0 r1 r2).agree1 r1 +
        summand (voteResult tol r0 r1 r2).agree2 r2) (countAgree tol r0 r1 r2) := by
  have hn : 2 ≤ countAgree tol r0 r1 r2 := (voteResult_status_eq_ok_iff ..).1 h
  obtain ⟨-, -, hst, -⟩ | ⟨-, -, -, havg⟩ | ⟨-, -, hst, -⟩ := voteResult_status_avg tol r0 r1 r2
  · exact absurd (h.symm.trans hst) (by decide)
  · rw [havg]
    obtain ⟨hlo, hhi⟩ := mean_between (Nat.zero_lt_of_lt hn) (fun _ => toInt_range r0.temp)
      (fun _ => toInt_range r1.temp) (fun _ => toInt_range r2.temp)
    exact toInt_ofInt_of_range hlo hhi
  · exact absurd (h.symm.trans hst) (by decide)

/-- Settles O40: two flags make the status OK, whose average is the truncating mean. -/
theorem voteAverageTruncatesTowardZero : Obligations.VoteAverageTruncatesTowardZero := by
  intro s r0 r1 r2 hc
  refine ⟨_, _, exec_vote_of_legal hc r0 r1 r2, rfl, fun hn => ?_⟩
  have hok := (voteResult_status_eq_ok_iff s.cfg.tol r0 r1 r2).2 hn
  exact ⟨hok, voteResult_avg_toInt hok⟩

/-! ### The flags come in pairs (41_consensus.md R146) -/

section
variable (tol : Int) (r0 r1 r2 : Reading)

theorem countAgree_ne_one : countAgree tol r0 r1 r2 ≠ 1 := by
  rw [countAgree_eq]
  exact countFlags_agree_ne_one tol r0 r1 r2

/-- Two flags are set exactly if one is, which is if some pair of valid sensors is within the tolerance. -/
theorem two_le_countAgree_iff :
    2 ≤ countAgree tol r0 r1 r2 ↔
      (r0.valid = true ∧ r1.valid = true ∧ |r0.temp.toInt - r1.temp.toInt| ≤ tol) ∨
      (r0.valid = true ∧ r2.valid = true ∧ |r0.temp.toInt - r2.temp.toInt| ≤ tol) ∨
      (r1.valid = true ∧ r2.valid = true ∧ |r1.temp.toInt - r2.temp.toInt| ≤ tol) := by
  have hone := countAgree_ne_one tol r0 r1 r2
  calc 2 ≤ countAgree tol r0 r1 r2
    _ ↔ ¬ countAgree tol r0 r1 r2 = 0 := by omega
    _ ↔ agreeFlag tol r0 r1 r2 = true ∨ agreeFlag tol r1 r0 r2 = true ∨ agreeFlag tol r2 r0 r1 = true := by
      simp only [countAgree_eq, countFlags_eq_zero_iff, not_and_or, Bool.not_eq_false]
    _ ↔ _ := by
      simp only [agreeFlag_iff, abs_sub_comm r1.temp.toInt r0.temp.toInt, abs_sub_comm r2.temp.toInt]
      tauto

end

/-- Settles O41: two flags mean a pair of valid sensors within the tolerance. -/
theorem voteFlagsComeInPairs : Obligations.VoteFlagsComeInPairs :=
  fun s r0 r1 r2 hc =>
    ⟨_, _, exec_vote_of_legal hc r0 r1 r2, rfl, countAgree_ne_one s.cfg.tol r0 r1 r2,
      (voteResult_status_eq_ok_iff ..).trans (two_le_countAgree_iff ..), voteResult_status_eq_disagree_iff ..⟩

/-! ### The invariants of `VR` (41_consensus.md R147) -/

theorem shownTemp_of_invalid {r : Reading} (h : r.valid = false) : shownTemp r = 0#16 := by
  simp [shownTemp, h]

/-- Settles O42: the average, if it is a mean, lies between every bounds of the agreeing temperatures. -/
theorem voteResultMeetsItsInvariants : Obligations.VoteResultMeetsItsInvariants := by
  intro s t r0 r1 r2 h
  obtain ⟨-, rfl⟩ := execVote_eq_next h
  refine ⟨_, rfl, voteResult_avg_eq_zero _ _ _ _, ?_, ?_, ?_, ?_, ?_, ?_, ?_, fun hok lo hi h0 h1 h2 => ?_⟩
  · simpa using valid_of_agreeFlag
  · simpa using valid_of_agreeFlag
  · simpa using valid_of_agreeFlag
  · simpa using shownTemp_of_invalid
  · simpa using shownTemp_of_invalid
  · simpa using shownTemp_of_invalid
  · obtain hst | hst | hst := voteResult_status_cases s.cfg.tol r0 r1 r2 <;> simp [hst]
  · have hn : 2 ≤ countAgree s.cfg.tol r0 r1 r2 := (voteResult_status_eq_ok_iff ..).1 hok
    rw [voteResult_avg_toInt hok]
    exact mean_between (Nat.zero_lt_of_lt hn) h0 h1 h2

/-! ### Tolerances at the extremes (41_consensus.md R148.7 to R148.9) -/

section
variable {tol : Int} {r x y : Reading}

theorem agreeFlag_of_neg (h : tol < 0) : agreeFlag tol r x y = false := by
  have hout (a b : Temp) : ¬ |a.toInt - b.toInt| ≤ tol := fun hle => absurd (abs_nonneg _) (not_le.2 (hle.trans_lt h))
  rw [← Bool.not_eq_true, agreeFlag_iff]
  simp [hout]

theorem agreeFlag_zero_iff :
    agreeFlag 0 r x y = true ↔ r.valid = true ∧
      ((x.valid = true ∧ r.temp = x.temp) ∨ (y.valid = true ∧ r.temp = y.temp)) := by
  simp only [agreeFlag_iff, abs_nonpos_iff, sub_eq_zero, BitVec.toInt_inj]

/-- Any two int16 values are within 65535, so a valid sensor agrees as soon as another is valid. -/
theorem agreeFlag_of_wide (h : 65535 ≤ tol) (hn : 2 ≤ countFlags r.valid x.valid y.valid) :
    agreeFlag tol r x y = r.valid := by
  have hin (a b : Temp) : withinTol tol a b = true := by
    obtain ⟨hla, hha⟩ := toInt_range a
    obtain ⟨hlb, hhb⟩ := toInt_range b
    rw [withinTol_iff, abs_le]
    omega
  have hpartner : r.valid = true → (x.valid || y.valid) = true := by
    intro hr
    by_contra hnone
    obtain ⟨hx, hy⟩ : x.valid = false ∧ y.valid = false := by simpa using hnone
    simp [countFlags, hr, hx, hy] at hn
  simpa [agreeFlag, hin] using hpartner

end

/-- Settles O43: the three tolerances leave no flag, the flags of equal temperatures, and the validities. -/
theorem voteAtExtremeTolerances : Obligations.VoteAtExtremeTolerances := by
  intro s r0 r1 r2 hc hvalid
  refine ⟨_, _, exec_vote_of_legal hc r0 r1 r2, rfl, fun hneg => ?_, fun hzero => ?_, fun hwide => ?_⟩
  · have hnone : countAgree s.cfg.tol r0 r1 r2 = 0 := by
      rw [countAgree_eq, agreeFlag_of_neg hneg, agreeFlag_of_neg hneg, agreeFlag_of_neg hneg]
      rfl
    exact ⟨(voteResult_status_eq_disagree_iff ..).2 ⟨by simp [voteResult_status_eq_ok_iff, hnone], hvalid⟩,
      (countFlags_eq_zero_iff ..).1 hnone⟩
  · rw [voteResult_agree0, voteResult_agree1, voteResult_agree2, hzero]
    exact ⟨agreeFlag_zero_iff, agreeFlag_zero_iff, agreeFlag_zero_iff⟩
  · have h0 : agreeFlag s.cfg.tol r0 r1 r2 = r0.valid := agreeFlag_of_wide hwide hvalid
    have h1 : agreeFlag s.cfg.tol r1 r0 r2 = r1.valid :=
      agreeFlag_of_wide hwide (by rw [countFlags_swap01]; exact hvalid)
    have h2 : agreeFlag s.cfg.tol r2 r0 r1 = r2.valid :=
      agreeFlag_of_wide hwide (by rw [countFlags_swap01, countFlags_swap12]; exact hvalid)
    rw [voteResult_status_eq_ok_iff, countAgree_eq, voteResult_agree0, voteResult_agree1, voteResult_agree2, h0, h1, h2]
    exact ⟨hvalid, rfl, rfl, rfl⟩

/-! ### Exchanging sensors (41_consensus.md R140) -/

section
variable (tol : Int) (r0 r1 r2 : Reading)

theorem voteResult_swap01 :
    voteResult tol r1 r0 r2 =
      { voteResult tol r0 r1 r2 with
        agree0 := (voteResult tol r0 r1 r2).agree1, agree1 := (voteResult tol r0 r1 r2).agree0
        temp0 := (voteResult tol r0 r1 r2).temp1, temp1 := (voteResult tol r0 r1 r2).temp0 } := by
  unfold voteResult
  dsimp only
  rw [agreeFlag_comm tol r2 r1 r0, countFlags_swap01 r0.valid, countFlags_swap01 (agreeFlag tol r0 r1 r2),
    add_comm (summand (agreeFlag tol r1 r0 r2) r1)]
  split
  · rfl
  · split <;> rfl

theorem voteResult_swap12 :
    voteResult tol r0 r2 r1 =
      { voteResult tol r0 r1 r2 with
        agree1 := (voteResult tol r0 r1 r2).agree2, agree2 := (voteResult tol r0 r1 r2).agree1
        temp1 := (voteResult tol r0 r1 r2).temp2, temp2 := (voteResult tol r0 r1 r2).temp1 } := by
  unfold voteResult
  dsimp only
  rw [agreeFlag_comm tol r0 r2 r1, countFlags_swap12 r0.valid, countFlags_swap12 (agreeFlag tol r0 r1 r2),
    add_right_comm _ (summand (agreeFlag tol r2 r0 r1) r2)]
  split
  · rfl
  · split <;> rfl

end

/-- Settles O44: the two exchanges commute with the vote. -/
theorem voteTreatsSensorsAlike : Obligations.VoteTreatsSensorsAlike :=
  fun s r0 r1 r2 hc =>
    ⟨_, ⟨_, exec_vote_of_legal hc r0 r1 r2, rfl⟩,
      ⟨_, exec_vote_of_legal hc r1 r0 r2, congrArg some (voteResult_swap01 s.cfg.tol r0 r1 r2)⟩,
      ⟨_, exec_vote_of_legal hc r0 r2 r1, congrArg some (voteResult_swap12 s.cfg.tol r0 r1 r2)⟩⟩

end Sys2Proof.Machine

/-! ## Response Encoder: what an encode writes, what `SEND` sends, and what a vote puts on the wire

An encode under a legal configuration leaves `loadMessage` of its message, so that each statement about a message is one about
its bytes. The checksum law is that of the invariant from power-on, since no encoder reads the state. -/

namespace Sys2Proof.Machine

/-! ### The bytes an encode leaves (42_response_encoder.md R171 to R173) -/

/-- After an encode `MB` begins with the message, and the bytes beyond it are retained (20_memory.md R58). -/
theorem mb_of_encode (size : MsgSize) {bytes message : List Byte} (s : State) (h : bytes = message) :
    Memory.readList (loadMessage size bytes s).mb 0 message.length = some message ∧
      ∀ a, message.length ≤ a → Memory.read (loadMessage size bytes s).mb a = Memory.read s.mb a := by
  subst h
  exact ⟨Memory.readList_writeList .., fun _ => read_loadMessage_other⟩

section
variable (st : Byte) (a0 a1 a2 : Bool) (p0 p1 p2 avg : Temp)

/-- The bytes before the checksum as 30_encoding.md R74 lists them. -/
theorem temperatureBody_eq :
    temperatureBody st p0 p1 p2 a0 a1 a2 avg =
      [0x01#8, st, p0.setWidth 8, (p0 >>> 8).setWidth 8, p1.setWidth 8, (p1 >>> 8).setWidth 8, p2.setWidth 8,
        (p2 >>> 8).setWidth 8, BitVec.ofNat 8 (a0.toNat + 2 * a1.toNat + 4 * a2.toNat), avg.setWidth 8,
        (avg >>> 8).setWidth 8] := by
  simp only [temperatureBody, lowByte_eq, highByte_eq, packFlags_eq, temperatureId]

theorem systemStatusMessage_eq :
    systemStatusMessage st a0 a1 a2 =
      [0x02#8, clampSystemStatus st, packFlags a0 a1 a2, 0x02#8 ^^^ clampSystemStatus st ^^^ packFlags a0 a1 a2] := by
  simp [systemStatusMessage, sealMessage, systemStatusBody, systemStatusId, BitVec.xor_assoc]

theorem errorMessage_eq : errorMessage st = [0x03#8, clampErrorCode st, 0x03#8 ^^^ clampErrorCode st] := by
  simp [errorMessage, sealMessage, errorBody, errorId]

end

/-- The packed flags as a number (30_encoding.md R79). -/
theorem toNat_packFlags (f0 f1 f2 : Bool) : (packFlags f0 f1 f2).toNat = f0.toNat + 2 * f1.toNat + 4 * f2.toNat := by
  cases f0 <;> cases f1 <;> cases f2 <;> rfl

/-- Settles O45: `ENC_TEMP` loads its message, whose last byte is the XOR of the bytes before it. -/
theorem encTempWritesTheMessage : Obligations.EncTempWritesTheMessage := by
  intro s st a0 a1 a2 p0 p1 p2 avg hc
  have hbody := temperatureBody_eq (clampVoteStatus st) a0 a1 a2 p0 p1 p2 avg
  obtain ⟨hmb, hrest⟩ := mb_of_encode .twelve s (congrArg sealMessage hbody)
  refine ⟨_, clampVoteStatus st, _, execEncTemp_eq hc st a0 a1 a2 p0 p1 p2 avg, rfl, toNat_clampTo _ _, hmb, ?_, hrest⟩
  simp [BitVec.xor_assoc]

/-- Settles O46: `ENC_SYS` loads its message, byte 1 clamped and the flags packed. -/
theorem encSysWritesTheMessage : Obligations.EncSysWritesTheMessage := by
  intro s ss g0 g1 g2 hc
  obtain ⟨hmb, hrest⟩ := mb_of_encode .four s (systemStatusMessage_eq ss g0 g1 g2)
  exact ⟨_, clampSystemStatus ss, packFlags g0 g1 g2, execEncSys_eq hc ss g0 g1 g2, rfl, toNat_clampTo _ _,
    toNat_packFlags g0 g1 g2, hmb, hrest⟩

/-- Settles O47: `ENC_ERR` loads its message, byte 1 clamped. -/
theorem encErrWritesTheMessage : Obligations.EncErrWritesTheMessage := by
  intro s ec hc
  obtain ⟨hmb, hrest⟩ := mb_of_encode .three s (errorMessage_eq ec)
  exact ⟨_, clampErrorCode ec, execEncErr_eq hc ec, rfl, toNat_clampTo _ _, hmb, hrest⟩

/-! ### Encoders read no state, and what they write meets the checksum law (42_response_encoder.md R175, R176) -/

/-- An owner of the buffer completes under every legal configuration. -/
theorem exec_encoder_completes {i : Instr} (hi : ownsBuffer i = true) {s : State} (hc : configLegal s.cfg = true) :
    ∃ t, exec i s = .next t := by
  obtain ⟨size, bytes, -, heq⟩ := exec_encoder_eq hi
  exact ⟨_, heq s hc⟩

/-- An owner of the buffer leaves one and the same message in it from every state. -/
theorem exec_encoder_message {i : Instr} (hi : ownsBuffer i = true) :
    ∃ size bytes, ∀ s t, exec i s = .next t → t.msize = some size ∧ bufferedMessage t = some bytes := by
  obtain ⟨size, bytes, hl, heq⟩ := exec_encoder_eq hi
  refine ⟨size, bytes, fun s t h => ?_⟩
  rw [heq s (configLegal_of_exec_eq_next h)] at h
  cases h
  split <;> exact ⟨rfl, bufferedMessage_loadMessage hl s⟩

/-- Settles O50: the message of an encoder does not depend on the state. -/
theorem encodersReadNoState : Obligations.EncodersReadNoState := by
  intro i s s' t hi hc' h
  obtain ⟨size, bytes, hmessage⟩ := exec_encoder_message hi
  obtain ⟨t', h'⟩ := exec_encoder_completes hi hc'
  obtain ⟨hsize, hbytes⟩ := hmessage s t h
  obtain ⟨hsize', hbytes'⟩ := hmessage s' t' h'
  exact ⟨t', h', hsize'.trans hsize.symm, hbytes'.trans hbytes.symm⟩

theorem bufferedMessage_eq_some {s : State} {bytes : List Byte} :
    bufferedMessage s = some bytes ↔
      ∃ size, s.msize = some size ∧ Memory.readList s.mb 0 (sizeBytes size) = some bytes := by
  unfold bufferedMessage
  cases s.msize <;> simp

/-- What the buffer holds under the invariant is a message the block emits (42_response_encoder.md R176). -/
theorem emittable_of_messageInv {s : State} {bytes : List Byte} (h : messageInv s = true)
    (hb : bufferedMessage s = some bytes) : emittable bytes = true := by
  obtain hnone | ⟨bytes', hb', hm⟩ := (messageInv_iff s).1 h
  · obtain ⟨size, hsize, -⟩ := bufferedMessage_eq_some.1 hb
    cases hnone.symm.trans hsize
  · cases hb.symm.trans hb'
    exact hm

/-- The three identifiers of a response and their lengths (30_encoding.md R70, R71). -/
theorem messageLength_of_response {ident : Byte} {n : Nat} (hid : ident ≠ requestTag)
    (h : messageLength ident = some n) :
    (ident = 0x01#8 ∧ n = 12) ∨ (ident = 0x02#8 ∧ n = 4) ∨ (ident = 0x03#8 ∧ n = 3) := by
  unfold messageLength at h
  rw [if_neg hid] at h
  split_ifs at h with h1 h2 h3
  · exact .inl ⟨h1, (Option.some.inj h).symm⟩
  · exact .inr (.inl ⟨h2, (Option.some.inj h).symm⟩)
  · exact .inr (.inr ⟨h3, (Option.some.inj h).symm⟩)

/-- A message the block emits meets the checksum law and has a response's identifier and length (R176). -/
theorem checksumLaw_of_emittable {bytes : List Byte} (h : emittable bytes = true) :
    ∃ ident rest, bytes = ident :: rest ∧ rest.foldl (· ^^^ ·) ident = 0#8 ∧
      ((ident = 0x01#8 ∧ bytes.length = 12) ∨ (ident = 0x02#8 ∧ bytes.length = 4) ∨
        (ident = 0x03#8 ∧ bytes.length = 3)) := by
  cases bytes with
  | nil => cases h
  | cons ident rest =>
    simp only [emittable, Bool.and_eq_true, decide_eq_true_eq] at h
    obtain ⟨⟨hid, hlen⟩, hxor⟩ := h
    exact ⟨ident, rest, rfl, (foldl_xor rest ident).trans hxor, messageLength_of_response hid hlen⟩

/-- Settles O48: an encoder leaves the message that it would leave from power-on, where the invariant of R176 holds. -/
theorem encodedMessagesMeetTheChecksumLaw : Obligations.EncodedMessagesMeetTheChecksumLaw := by
  intro i s t hi h
  have hc : configLegal s.cfg = true := configLegal_of_exec_eq_next h
  obtain ⟨_, bytes, hmessage⟩ := exec_encoder_message hi
  obtain ⟨u, hu⟩ := exec_encoder_completes (s := State.powerOn s.cfg) hi hc
  obtain ⟨-, -, -, -, hinv, -⟩ := (exec_effects hu).machineInv (machineInv_powerOn s.cfg)
  have hemit : emittable bytes = true := emittable_of_messageInv hinv (hmessage _ u hu).2
  obtain ⟨size, hsize, hread⟩ := bufferedMessage_eq_some.1 (hmessage s t h).2
  obtain ⟨ident, rest, rfl, hxor, hid⟩ := checksumLaw_of_emittable hemit
  rw [Memory.length_of_readList hread] at hid
  exact ⟨size, ident, rest, hsize, hread, hxor, hid⟩

/-! ### `SEND` (42_response_encoder.md R174) -/

/-- Settles O51: `SEND` appends the buffered message, which `RESET` leaves as it is. -/
theorem sendAppendsTheMessage : Obligations.SendAppendsTheMessage := by
  intro s hc
  refine ⟨fun size bytes hsize hbytes => ?_, execSend_of_unwritten hc, fun t ht bytes u hbytes hu => ?_⟩
  · exact execSend_of_buffered hc (bufferedMessage_eq_some.2 ⟨size, hsize, hbytes⟩)
  · cases (execReset_eq hc).symm.trans ht
    cases (execSend_of_buffered (s := clearReader s) hc hbytes).symm.trans hu
    rfl

/-! ### The fields on the wire (42_response_encoder.md R177, 30_encoding.md R78, R79) -/

/-- A part of a range that reads is that part of what is read. -/
theorem Memory.readList_part {m : Memory} {a n : Nat} {vs : List Byte} (h : Memory.readList m a n = some vs) {i k : Nat}
    (hk : i + k ≤ n) : Memory.readList m (a + i) k = some ((vs.drop i).take k) := by
  induction k generalizing i with
  | zero => rfl
  | succ k ih =>
    have hlen := Memory.length_of_readList h
    have hi : i < vs.length := by omega
    unfold Memory.readList
    rw [Memory.read_of_readList h (by omega), Nat.add_assoc, ih (by omega), List.getElem?_eq_getElem hi,
      List.drop_eq_getElem_cons hi, List.take_succ_cons]

/-- Beside a status up to the sentinel the fields of `ENC_TEMP` are in `MB[1..10]` as given. -/
theorem readList_temperatureFields (s : State) {st : Byte} (hst : st.toNat ≤ 3) (a0 a1 a2 : Bool) (p0 p1 p2 avg : Temp) :
    Memory.readList (loadMessage .twelve (temperatureMessage st a0 a1 a2 p0 p1 p2 avg) s).mb 1 10 =
      some [st, lowByte p0, highByte p0, lowByte p1, highByte p1, lowByte p2, highByte p2, packFlags a0 a1 a2,
        lowByte avg, highByte avg] := by
  have hfields := Memory.readList_part
    (Memory.readList_writeList s.mb 0 (temperatureMessage st a0 a1 a2 p0 p1 p2 avg)) (i := 1) (k := 10) (by simp)
  have hclamp : clampVoteStatus st = st := clampTo_of_le (BitVec.le_def.2 hst)
  rw [temperatureMessage, hclamp] at hfields ⊢
  exact hfields

/-- An int16 field reassembled from its two bytes is the value encoded (30_encoding.md R78). -/
theorem ofNat_le16 (v : Temp) : BitVec.ofNat 16 ((lowByte v).toNat ||| (highByte v).toNat <<< 8) = v := by
  rw [← ofLe16_eq_or, ofLe16_le16]

/-- The flags are bits 0 to 2 of the packed byte (30_encoding.md R79). -/
theorem getLsbD_packFlags (f0 f1 f2 : Bool) :
    (packFlags f0 f1 f2).getLsbD 0 = f0 ∧ (packFlags f0 f1 f2).getLsbD 1 = f1 ∧ (packFlags f0 f1 f2).getLsbD 2 = f2 :=
  ⟨packFlags_bit0 f0 f1 f2, packFlags_bit1 f0 f1 f2, packFlags_bit2 f0 f1 f2⟩

/-- Settles O60: the fields are in the message as given, and each reads back. -/
theorem encTempEnforcesNoInvariant : Obligations.EncTempEnforcesNoInvariant := by
  intro s st a0 a1 a2 p0 p1 p2 avg hc hst
  exact ⟨_, _, _, _, _, _, _, _, _, _, execEncTemp_eq hc st a0 a1 a2 p0 p1 p2 avg,
    readList_temperatureFields s hst a0 a1 a2 p0 p1 p2 avg, ofNat_le16 p0, ofNat_le16 p1, ofNat_le16 p2, ofNat_le16 avg,
    getLsbD_packFlags a0 a1 a2⟩

/-- The two bytes of a zero temperature are zero. -/
theorem le16_of_eq_zero {v : Temp} (h : v = 0#16) : lowByte v = 0#8 ∧ highByte v = 0#8 := by
  subst h
  decide

/-- `ENC_TEMP VR` encodes the fields of `VR` (30_encoding.md R86). -/
theorem exec_encTempVR {s : State} {v : VoteResult} (hc : configLegal s.cfg = true) (hv : s.vr = some v) :
    ∃ i, encTempVR s = some i ∧ exec i s =
      .next (loadMessage .twelve
        (temperatureMessage v.status v.agree0 v.agree1 v.agree2 v.temp0 v.temp1 v.temp2 v.avg) s) :=
  ⟨.encTemp v.status v.agree0 v.agree1 v.agree2 v.temp0 v.temp1 v.temp2 v.avg, by simp [encTempVR, hv],
    execEncTemp_eq hc ..⟩

/-- Settles O59: `ENC_TEMP VR` writes the fields of the vote result as they are, and these meet R147. -/
theorem voteInvariantsReachTheWire : Obligations.VoteInvariantsReachTheWire := by
  intro s r0 r1 r2 hc
  have hvote := exec_vote_of_legal hc r0 r1 r2
  obtain ⟨v, hvr, havg, hv0, hv1, hv2, ht0, ht1, ht2, hst, hbounds⟩ := voteResultMeetsItsInvariants s _ r0 r1 r2 hvote
  obtain ⟨hf0, hf1, hf2⟩ := getLsbD_packFlags v.agree0 v.agree1 v.agree2
  refine ⟨_, _, _, _, _, _, _, _, _, _, _, _, hvote, exec_encTempVR hc hvr,
    readList_temperatureFields _ (hst.trans (by decide)) .., hst, fun h => le16_of_eq_zero (havg h),
    toNat_packFlags_lt .., ?_⟩
  rw [ofNat_le16, hf0, hf1, hf2]
  exact ⟨hv0, hv1, hv2, fun h => le16_of_eq_zero (ht0 h), fun h => le16_of_eq_zero (ht1 h),
    fun h => le16_of_eq_zero (ht2 h), hbounds⟩

end Sys2Proof.Machine

/-! ## Dispatch: the end of a run, and the answers of `RESPOND`

A run that has completed so far is observed from the state it has reached (`observe_append_of_next`). `RESPOND` goes by the
result that `GET_DATA` has just returned, and every answer is an encode and a `SEND` (43_dispatch.md R201 to R208). -/

namespace Sys2Proof.Machine

/-! ### The end of a run (43_dispatch.md R207) -/

/-- The observation of a run goes on from the state that its first part completes in. -/
theorem observe_append_of_next {before : List HostInput} {s t : State} (h : runInputs before s = .next t)
    (rest : List HostInput) : observe (before ++ rest) s = observe rest t := by
  induction before generalizing s with
  | nil =>
    cases h
    rfl
  | cons input before ih =>
    obtain ⟨u, hu, ht⟩ := andThen_eq_next.1 h
    rw [List.cons_append, observe_cons_of_next hu, ih ht]

/-- Settles O15: the observation goes on from the state before the next operation, whose outcome then decides. -/
theorem runEndsAtTheFirstStop : Obligations.RunEndsAtTheFirstStop := by
  intro before after h s t ht
  have hrest := observe_append_of_next ht
  have hrefused {input : HostInput} {r : Refusal} (hr : applyInput input t = .refused r) :
      observe (before ++ input :: after) s = observeAt (.refused r) t :=
    (hrest _).trans (observe_cons_of_refused hr after)
  refine ⟨?_, fun u hu => (hrest _).trans (observe_cons_of_next hu after),
    fun f hf => (hrest _).trans (observe_cons_of_fault hf after), fun r hr => hrefused hr,
    fun w hw => hrefused (step_of_reserved rfl hw)⟩
  have hend := hrest []
  rwa [List.append_nil] at hend

/-! ### What `RESPOND` sends (43_dispatch.md R201 to R203) -/

section
variable {p : RespondInputs} {s : State}

/-- Without an upstream failure `RESPOND` goes by the result of `GET_DATA` (R208). -/
theorem respond_of_getData {r : OpResult} (hsys : p.sysFail = false) (h : execGetData s = .next (reply r s)) :
    respond p s = respondDecoded p (reply r s) := by
  have hexec : exec .getData s = .next (reply r s) := h
  simp [respond, hsys, hexec]

variable (hc : configLegal s.cfg = true)
include hc

/-! Each encoder's message is sent by the `SEND` that follows (42_response_encoder.md R174). -/

theorem runOps_encTemp_send (st : Byte) (a0 a1 a2 : Bool) (p0 p1 p2 avg : Temp) :
    runOps [.encTemp st a0 a1 a2 p0 p1 p2 avg, .send] s =
      .next (transmit (temperatureMessage st a0 a1 a2 p0 p1 p2 avg)
        (loadMessage .twelve (temperatureMessage st a0 a1 a2 p0 p1 p2 avg) s)) :=
  (runOps_pair ..).trans (encode_then_send hc rfl)

theorem runOps_encSys_send (ss : Byte) (g0 g1 g2 : Bool) :
    runOps [.encSys ss g0 g1 g2, .send] s =
      .next (transmit (systemStatusMessage ss g0 g1 g2) (loadMessage .four (systemStatusMessage ss g0 g1 g2) s)) :=
  (runOps_pair ..).trans (encode_then_send hc rfl)

theorem runOps_encErr_send (ec : Byte) :
    runOps [.encErr ec, .send] s = .next (transmit (errorMessage ec) (loadMessage .three (errorMessage ec) s)) :=
  (runOps_pair ..).trans (encode_then_send hc rfl)

/-- On an upstream failure Error SystemFailure is sent (R201). -/
theorem respond_of_sysFail (hsys : p.sysFail = true) :
    respond p s = .next (transmit (errorMessage (errorCodeOrdinal .systemFailure))
      (loadMessage .three (errorMessage (errorCodeOrdinal .systemFailure)) s)) := by
  rw [respond, if_pos hsys]
  exact runOps_encErr_send hc _

/-- On a failed decode Error BadRequest is sent (R202). -/
theorem respondDecoded_badRequest :
    respondDecoded p (reply (.data false .unknown) s) =
      .next (transmit (errorMessage (errorCodeOrdinal .badRequest))
        (loadMessage .three (errorMessage (errorCodeOrdinal .badRequest)) (reply (.data false .unknown) s))) := by
  simp only [respondDecoded, reply_results, List.getLast?_concat]
  exact runOps_encErr_send (s := reply _ s) hc _

/-- On a SystemStatus request the snapshot is encoded and sent (R203). -/
theorem respondDecoded_systemStatus :
    respondDecoded p (reply (.data true .systemStatus) s) =
      .next (transmit (systemStatusMessage p.ss p.g0 p.g1 p.g2)
        (loadMessage .four (systemStatusMessage p.ss p.g0 p.g1 p.g2) (reply (.data true .systemStatus) s))) := by
  simp only [respondDecoded, reply_results, List.getLast?_concat]
  exact runOps_encSys_send (s := reply _ s) hc ..

/-- On a Temperature request the vote on the readings is taken, encoded and sent, whatever its status (R203, R204). -/
theorem respondDecoded_temperature {v : VoteResult} (hv : v = voteResult s.cfg.tol p.r0 p.r1 p.r2) :
    ∃ t, respondDecoded p (reply (.data true .temperature) s) = .next t ∧ t.vr = some v ∧
      t.tx = s.tx ++ temperatureMessage v.status v.agree0 v.agree1 v.agree2 v.temp0 v.temp1 v.temp2 v.avg ∧
      t.results = s.results ++ [.data true .temperature, .voted v] := by
  have hvote : exec (.vote p.r0 p.r1 p.r2) (reply (.data true .temperature) s) =
      .next (reply (.voted v) (setVR v (reply (.data true .temperature) s))) :=
    hv ▸ exec_vote_of_legal (s := reply _ s) hc p.r0 p.r1 p.r2
  simp only [respondDecoded, reply_results, List.getLast?_concat]
  rw [hvote, andThen_next]
  exact ⟨_, runOps_encTemp_send (s := reply _ (setVR v (reply _ s))) hc .., rfl, rfl, by simp⟩

end

/-- Settles O55: `RESPOND` encodes and sends Error SystemFailure without looking at the reader. -/
theorem respondReportsSystemFailureFirst : Obligations.RespondReportsSystemFailureFirst :=
  fun _ _ hc hsys => ⟨_, respond_of_sysFail hc hsys, rfl⟩

/-- A frame of wrong checksum or of an unknown type fails the four checks (40_request_reader.md R121). -/
theorem decodeFrame_of_bad {b0 b1 b2 : Byte} (h : b0 ^^^ b1 ≠ b2 ∨ 2 ≤ b1.toNat) (wpos : Nat) :
    decodeFrame wpos b0 b1 b2 = .data false .unknown := by
  obtain ⟨ok, rtype, hdata, hok, -, hfail⟩ := decodeFrame_checks wpos b0 b1 b2
  cases ok with
  | true =>
    obtain ⟨-, -, hsum, htype⟩ := hok.1 rfl
    obtain hbad | hbad := h
    · exact absurd hsum hbad
    · omega
  | false => rw [hdata, hfail rfl]

/-- Settles O56: `GET_DATA` fails on the frame, and `RESPOND` encodes and sends Error BadRequest. -/
theorem respondReportsBadRequest : Obligations.RespondReportsBadRequest := by
  intro p s b0 b1 b2 hc hsys hrs hframe hbad
  have hbyte {k : Nat} (hk : k < 3) : Memory.read s.rxb k = [b0, b1, b2][k]? := by
    simpa using Memory.read_of_readList hframe hk
  have hdata : execGetData s = .next (reply (decodeFrame s.wpos b0 b1 b2) s) :=
    execGetData_of_done hc hrs (hbyte (by decide)) (hbyte (by decide)) (hbyte (by decide))
  rw [decodeFrame_of_bad hbad] at hdata
  exact ⟨_, (respond_of_getData hsys hdata).trans (respondDecoded_badRequest hc), rfl, hrs, rfl⟩

/-! ### A poll is answered (43_dispatch.md R203, R204, R208; request rows log 9) -/

/-- A legal request in time is framed, and `RESPOND` then goes by its type. -/
theorem respond_of_request {p : RespondInputs} {s : State} {n0 n1 n2 : Nat} {b1 b2 : Byte} {rtype : RequestType}
    (hc : configLegal s.cfg = true) (hsys : p.sysFail = false) (hb : beginsMessage n0 s = true)
    (h1 : ((n1 : Int) - n0) % 2 ^ s.cfg.clockW < s.cfg.rxTimeout)
    (h2 : ((n2 : Int) - n0) % 2 ^ s.cfg.clockW < s.cfg.rxTimeout)
    (hframe : decodeFrame 3 requestTag b1 b2 = .data true rtype) :
    andThen (pushThree requestTag b1 b2 n0 n1 n2 s) (respond p) =
      respondDecoded p (reply (.data true rtype) (framed b1 b2 n0 s)) := by
  obtain ⟨t, hpush, -, -, -, hdata⟩ := request_arrives hc hb h1 h2 hframe
  cases (pushThree_eq_framed hc hb h1 h2 b1 b2).symm.trans hpush
  rw [hpush, andThen_next, respond_of_getData hsys hdata]

/-- A vote's status is below the sentinel, so the response carries the vote result as it is (41_consensus.md R145,
30_encoding.md R80). -/
theorem temperatureMessage_of_vote {v : VoteResult} {tol : Int} {r0 r1 r2 : Reading} (hv : v = voteResult tol r0 r1 r2) :
    temperatureMessage v.status v.agree0 v.agree1 v.agree2 v.temp0 v.temp1 v.temp2 v.avg =
      sealMessage (temperatureBody v.status v.temp0 v.temp1 v.temp2 v.agree0 v.agree1 v.agree2 v.avg) := by
  have hclamp : clampVoteStatus v.status = v.status := by
    rw [hv]
    obtain hst | hst | hst := voteResult_status_cases (tol := tol) (r0 := r0) (r1 := r1) (r2 := r2) <;> rw [hst] <;> rfl
  rw [temperatureMessage, hclamp]

/-- Settles O57: the request is framed and decoded, and the response carries the fields of the vote result as they are. -/
theorem temperaturePollIsAnswered : Obligations.TemperaturePollIsAnswered := by
  intro p s n0 n1 n2 hc hsys hb h1 h2
  have hrequest := respond_of_request hc hsys hb h1 h2 (b1 := 0x00#8) (b2 := 0x04#8) (rtype := .temperature) (by decide)
  obtain ⟨v, hv⟩ : ∃ v, v = voteResult s.cfg.tol p.r0 p.r1 p.r2 := ⟨_, rfl⟩
  obtain ⟨t, hrespond, hvr, htx, hresults⟩ :=
    respondDecoded_temperature (s := framed 0x00#8 0x04#8 n0 s) (p := p) hc hv
  rw [temperatureMessage_of_vote hv, temperatureBody_eq, ← packFlags_eq] at htx
  refine ⟨t, v, packFlags v.agree0 v.agree1 v.agree2, _, hrequest.trans hrespond,
    ⟨_, exec_vote_of_legal hc p.r0 p.r1 p.r2, congrArg some hv.symm⟩, hvr, htx, toNat_packFlags .., ?_, ?_⟩
  · simp [BitVec.xor_assoc]
  · simp [hresults, framed]

/-- Settles O58: the request is framed and decoded, and the response carries the snapshot, byte 1 clamped. -/
theorem systemStatusPollIsAnswered : Obligations.SystemStatusPollIsAnswered := by
  intro p s n0 n1 n2 hc hsys hb h1 h2
  have hrequest := respond_of_request hc hsys hb h1 h2 (b1 := 0x01#8) (b2 := 0x05#8) (rtype := .systemStatus) (by decide)
  refine ⟨_, clampSystemStatus p.ss, packFlags p.g0 p.g1 p.g2,
    hrequest.trans (respondDecoded_systemStatus (s := framed _ _ n0 s) hc), toNat_clampTo _ _, toNat_packFlags .., ?_, rfl, ?_⟩
  · rw [transmit_tx, systemStatusMessage_eq]
    rfl
  · simp [framed]

end Sys2Proof.Machine

/-! ## Exceptions: what is refused

The configuration check is the only refusal of an operation (60_exceptions.md R222, 43_dispatch.md R207): under a legal
configuration each part of an operation completes or faults (`exec_ne_refused`). -/

namespace Sys2Proof.Machine

/-- A configuration is illegal exactly if it misses one of the three bounds (00_scope.md R7). -/
theorem configLegal_eq_false_iff (c : Config) :
    configLegal c = false ↔ c.rxCapacity < 3 ∨ c.clockW < 1 ∨ 2 ^ c.clockW ≤ c.rxTimeout := by
  rw [← Bool.not_eq_true, configLegal_iff]
  omega

theorem ne_refused_of_next {o : Out} {t : State} (h : o = .next t) (r : Refusal) : o ≠ .refused r := by
  simp [h]

/-- A sequence is refused only where one of its parts is. -/
theorem andThen_ne_refused {o : Out} {k : State → Out} {r : Refusal} (ho : o ≠ .refused r)
    (hk : ∀ s, o = .next s → k s ≠ .refused r) : andThen o k ≠ .refused r := by
  cases o with
  | next s => exact hk s rfl
  | fault f => simp
  | refused r' => exact ho

/-- A read that goes on without refusal is not refused. -/
theorem readElement_ne_refused {α : Type} {e : Element} {value : Option α} {k : α → Out} {r : Refusal}
    (hk : ∀ v, k v ≠ .refused r) : readElement e value k ≠ .refused r := by
  intro h
  obtain ⟨v, -, hv⟩ := readElement_eq_refused.1 h
  exact hk v hv

/-- The receive timeout reads `T0` and is never refused (40_request_reader.md R101). -/
theorem checkTimeout_ne_refused (now : Nat) (s : State) (r : Refusal) : checkTimeout now s ≠ .refused r := by
  by_cases hrs : s.rs = .collect
  · unfold checkTimeout
    rw [hrs]
    refine readElement_ne_refused fun t0 => ?_
    split_ifs <;> exact ne_refused_of_next rfl r
  · exact ne_refused_of_next (checkTimeout_of_not_collect hrs) r

section Legal

variable {s : State} (hc : configLegal s.cfg = true)
include hc

theorem execProcess_ne_refused (b : Byte) (now : Nat) (r : Refusal) : execProcess b now s ≠ .refused r := by
  unfold execProcess
  rw [guardConfig_of_legal hc]
  exact andThen_ne_refused (checkTimeout_ne_refused now s r) fun _ _ => ne_refused_of_next rfl r

/-- `GET_DATA` reads the frame in `DONE`, and nothing outside it (40_request_reader.md R120). -/
theorem execGetData_ne_refused (r : Refusal) : execGetData s ≠ .refused r := by
  by_cases hrs : s.rs = .done
  · unfold execGetData
    rw [guardConfig_of_legal hc, hrs]
    exact readElement_ne_refused fun _ => readElement_ne_refused fun _ => readElement_ne_refused fun _ =>
      ne_refused_of_next rfl r
  · exact ne_refused_of_next (execGetData_of_not_done hc hrs) r

/-- `SEND` faults before any encode, and otherwise reads the message (42_response_encoder.md R174). -/
theorem execSend_ne_refused (r : Refusal) : execSend s ≠ .refused r := by
  unfold execSend
  rw [guardConfig_of_legal hc]
  split
  · simp
  · exact readElement_ne_refused fun _ => ne_refused_of_next rfl r

/-- Each of three bytes arrives under the configuration that was legal before the first. -/
theorem pushThree_ne_refused (b0 b1 b2 : Byte) (n0 n1 n2 : Nat) (r : Refusal) :
    pushThree b0 b1 b2 n0 n1 n2 s ≠ .refused r := by
  refine andThen_ne_refused (execProcess_ne_refused hc b0 n0 r) fun s1 h1 => ?_
  have hc1 : configLegal s1.cfg = true := by rwa [(execProcess_effects h1).cfg_eq]
  refine andThen_ne_refused (execProcess_ne_refused hc1 b1 n1 r) fun s2 h2 => ?_
  have hc2 : configLegal s2.cfg = true := by rwa [(execProcess_effects h2).cfg_eq]
  exact execProcess_ne_refused hc2 b2 n2 r

theorem exec_encoder_ne_refused {i : Instr} (hi : ownsBuffer i = true) (r : Refusal) : exec i s ≠ .refused r := by
  obtain ⟨t, ht⟩ := exec_encoder_completes hi hc
  exact ne_refused_of_next ht r

/-- Under a legal configuration no operation is refused, in any state. -/
theorem exec_ne_refused (i : Instr) (r : Refusal) : exec i s ≠ .refused r := by
  cases i with
  | process b now => exact execProcess_ne_refused hc b now r
  | reset => exact ne_refused_of_next (execReset_eq hc) r
  | getData => exact execGetData_ne_refused hc r
  | vote r0 r1 r2 => exact ne_refused_of_next (exec_vote_of_legal hc r0 r1 r2) r
  | send => exact execSend_ne_refused hc r
  | reqTemperature n0 n1 n2 => exact pushThree_ne_refused hc _ _ _ n0 n1 n2 r
  | reqSystemStatus n0 n1 n2 => exact pushThree_ne_refused hc _ _ _ n0 n1 n2 r
  | encTemp | encSys | encErr | rspTemperature | rspSystemStatus | rspError =>
    exact exec_encoder_ne_refused hc rfl r

end Legal

/-- Settles O8: the bounds missed are those that make `configLegal` false, which the check before every operation refuses; and
past that check an operation completes or faults. -/
theorem illegalConfigurationRefused : Obligations.IllegalConfigurationRefused := by
  intro i s
  rw [← configLegal_eq_false_iff]
  exact ⟨exec_of_illegal i, fun hc => exec_ne_refused (by simpa using hc) i⟩

end Sys2Proof.Machine

/-! ## Reset and hazards: what power-on leaves, and the request the next byte loses

In `DONE` every byte begins a message (40_request_reader.md R102), so the request that was complete is gone whatever the byte is
(70_reset_and_hazards.md R253). -/

namespace Sys2Proof.Machine

/-- A byte that begins a message ends the one before it: the `GET_DATA` that follows finds no request. -/
theorem runOps_process_getData_of_begins {s : State} {b : Byte} {now : Nat} (hc : configLegal s.cfg = true)
    (hb : beginsMessage now s = true) :
    runOps [.process b now, .getData] s = .next (reply (.data false .unknown) (firstByte b now (toStart s))) := by
  have hprocess : exec (.process b now) s = .next (firstByte b now (toStart s)) := execProcess_of_begins hc hb
  have hget : exec .getData (firstByte b now (toStart s)) = .next (reply (.data false .unknown) (firstByte b now (toStart s))) :=
    execGetData_of_not_done (by simpa using hc) (firstByte_rs_ne_done (s := toStart s) hc)
  rw [runOps_cons, hprocess, andThen_next, runOps_cons, hget, andThen_next, runOps_nil]

/-- Settles O33: in `DONE` the byte begins a message, which leaves the reader in `COLLECT` or in `START`. -/
theorem nextByteLosesThePendingRequest : Obligations.NextByteLosesThePendingRequest := by
  intro s b now hc hdone
  have hb : beginsMessage now s = true := beginsMessage_of_not_collect (by simp [hdone]) now
  exact ⟨_, runOps_process_getData_of_begins hc hb, firstByte_rs_ne_done (s := toStart s) hc, by simp⟩

/-- Settles O1: each clause is a field of `State.powerOn`, and a store that lists no byte holds none. -/
theorem powerOnLeavesSpecValues : Obligations.PowerOnLeavesSpecValues :=
  fun _ _ => ⟨rfl, rfl, rfl, rfl, rfl, rfl, rfl, rfl, rfl, rfl⟩

end Sys2Proof.Machine
